-- ==== Sys2Proof/Word.lean ====
section
/-! DEFINITION. The word of the block (00_scope.md R10: XLEN = DW = 32) and its bit-order flag (30_encoding.md R72). -/

namespace Sys2Proof

/-- A host word, a register, or one duration of the timing buffer: 32 bits (00_scope.md R10). -/
abbrev Word := BitVec 32

/-- The two bit orders (00_scope.md section 6, 30_encoding.md R72). There is no third, ungrouped order
(41_pulse_distance_decode.md R113). -/
inductive BitOrder where
  /-- most-significant-bit-first, plain -/
  | msb
  /-- least-significant-bit-first *with byte grouping* -/
  | lsb
deriving DecidableEq, Repr

end Sys2Proof
end

