-- ==== Sys2Proof/Syntax.lean ====
section
/-! DEFINITION. The nine commands, one constructor per row of the opcode table (30_encoding.md R70). -/

namespace Sys2Proof

/-- A command. `nbits` is the unsigned field of 30_encoding.md R73, taken as is; `ord` the flag of R72. -/
inductive Instr where
  /-- ticks low (R97) -/
  | tlo
  /-- ticks high (R98) -/
  | thi
  /-- match mark (R99) -/
  | mmark
  /-- match space (R100) -/
  | mspace
  /-- decode pulse-distance data (R115) -/
  | decpd (ord : BitOrder) (nbits : Nat)
  /-- encode pulse-distance data, pairs only (R135) -/
  | encpd (ord : BitOrder) (nbits : Nat)
  /-- encode full frame (R136) -/
  | encfr (ord : BitOrder) (nbits : Nat)
  /-- decode pulse-width frame (R157) -/
  | decpw
  /-- decode NEC frame (R177) -/
  | decnec
deriving DecidableEq, Repr

end Sys2Proof
end

