-- ==== Sys2Proof/WellFormed.lean ====
section
/-! DEFINITION. Which instruction terms a command word can spell: `nbits` is a 6-bit field (30_encoding.md R71, R73). A value
above 32 is still a LEGAL word (R79); its execution fails with `E_NBITS`. -/

namespace Sys2Proof

/-- The 6-bit field `nbits` holds `0 .. 63` (30_encoding.md R71). -/
def nbitsFits (nbits : Nat) : Bool := decide (nbits < 64)

/-- The check, one arm per command. -/
def Instr.wellFormed : Instr → Bool
  | .tlo => true
  | .thi => true
  | .mmark => true
  | .mspace => true
  | .decpd _ nbits => nbitsFits nbits
  | .encpd _ nbits => nbitsFits nbits
  | .encfr _ nbits => nbitsFits nbits
  | .decpw => true
  | .decnec => true

/-- The instruction can be written as a command word. -/
abbrev WellFormed (i : Instr) : Prop := i.wellFormed = true

end Sys2Proof
end

