-- ==== Sys2Proof/Decode.lean ====
section
/-! DEFINITION. The decoder, total on every 32-bit word and rejecting by name (30_encoding.md R71 to R80), and the encoder
written from the same table. -/

namespace Sys2Proof

/-- Why a word is illegal. The block accepts such a word and completes it with `E_BADCMD` (30_encoding.md R77). -/
inductive IllegalWord where
  /-- a bit of `rsv0` or `rsv1` is set (R74) -/
  | reservedBitSet
  /-- opcode 0x0 or 0xA to 0xF (R76) -/
  | reservedOpcode
  /-- `ord` or `nbits` set on a command that does not use them (R75) -/
  | unusedFieldSet
deriving DecidableEq, Repr

/-- What the decoder answers. -/
inductive Decoded where
  | legal (i : Instr)
  | illegal (why : IllegalWord)
deriving DecidableEq, Repr

/-- `w[hi:lo]`, an unsigned integer of `hi - lo + 1` bits, bit 0 the least significant (00_scope.md section 6). -/
def bits (w : Word) (hi lo : Nat) : Nat := w.toNat / 2 ^ lo % 2 ^ (hi + 1 - lo)

/-- Field `op`, bits 3:0 (30_encoding.md R71). -/
def opField (w : Word) : Nat := bits w 3 0
/-- Field `ord`, bit 4 (30_encoding.md R71). -/
def ordField (w : Word) : Nat := bits w 4 4
/-- Field `rsv0`, bits 7:5 (30_encoding.md R71). -/
def rsv0Field (w : Word) : Nat := bits w 7 5
/-- Field `nbits`, bits 13:8 (30_encoding.md R71, R73). -/
def nbitsField (w : Word) : Nat := bits w 13 8
/-- Field `rsv1`, bits 31:14 (30_encoding.md R71). -/
def rsv1Field (w : Word) : Nat := bits w 31 14

/-- `ord = 0` is `MSB`, `ord = 1` is `LSB` (30_encoding.md R72). -/
def BitOrder.ofField (n : Nat) : BitOrder := if n = 0 then .msb else .lsb

/-- The field value of a bit order (30_encoding.md R72). -/
def BitOrder.toField : BitOrder → Nat
  | .msb => 0
  | .lsb => 1

/-- A command without fields: legal only with `ord = 0` and `nbits = 0` (30_encoding.md R75). -/
def decodeFixed (w : Word) (i : Instr) : Decoded :=
  if ordField w = 0 ∧ nbitsField w = 0 then .legal i else .illegal .unusedFieldSet

/-- Selection by opcode (30_encoding.md R70, R75, R76). -/
def decodeOp (w : Word) : Decoded :=
  match opField w with
  | 1 => decodeFixed w .tlo
  | 2 => decodeFixed w .thi
  | 3 => decodeFixed w .mmark
  | 4 => decodeFixed w .mspace
  | 5 => .legal (.decpd (.ofField (ordField w)) (nbitsField w))
  | 6 => .legal (.encpd (.ofField (ordField w)) (nbitsField w))
  | 7 => .legal (.encfr (.ofField (ordField w)) (nbitsField w))
  | 8 => decodeFixed w .decpw
  | 9 => decodeFixed w .decnec
  | _ => .illegal .reservedOpcode

/-- The decoder (30_encoding.md R74 to R79): reserved bits first, then the opcode, then the unused fields, the order of
R80's pseudocode. -/
def decode (w : Word) : Decoded :=
  if rsv0Field w ≠ 0 ∨ rsv1Field w ≠ 0 then .illegal .reservedBitSet else decodeOp w

/-- The word `op + 0x10 x ord + 0x100 x nbits` (30_encoding.md R71, R78). -/
def commandWord (op ord nbits : Nat) : Word := BitVec.ofNat 32 (op + 0x10 * ord + 0x100 * nbits)

/-- The encoder (30_encoding.md R70, R71, R75). -/
def encode : Instr → Word
  | .tlo => commandWord 1 0 0
  | .thi => commandWord 2 0 0
  | .mmark => commandWord 3 0 0
  | .mspace => commandWord 4 0 0
  | .decpd ord nbits => commandWord 5 ord.toField nbits
  | .encpd ord nbits => commandWord 6 ord.toField nbits
  | .encfr ord nbits => commandWord 7 ord.toField nbits
  | .decpw => commandWord 8 0 0
  | .decnec => commandWord 9 0 0

/-- The command word that the opcode table's numbering of `nbits` bits gives: a command is one 32-bit word, so bit 0 of the
table is bit 0 of the word, and every bit above `nbits` is 0. -/
def tableWord (nbits w : Nat) : Word := BitVec.ofNat 32 (w % 2 ^ nbits)

/-- What the decoder reads from a word numbered as the opcode table numbers it. -/
def decodeTableWord (nbits w : Nat) : Option Instr :=
  match decode (tableWord nbits w) with
  | .legal i => some i
  | .illegal _ => none

end Sys2Proof
end

