-- ==== Sys2Proof/Config.lean ====
section
/-! DEFINITION. What is fixed when the block is instantiated (00_scope.md section 5), and the free values: constants with no
body, of which nothing can be proved but what holds for every value. -/

namespace Sys2Proof.Config

/-- `TOL`, percent (00_scope.md R6). -/
def tol : Nat := 25
/-- `OFFSET`, microseconds (00_scope.md R6). -/
def offset : Nat := 20

/-- `NEC_UNIT` (00_scope.md R7); the five durations below are its multiples. -/
def necUnit : Nat := 560
/-- `NEC_HDR_MARK` (00_scope.md R7). -/
def necHdrMark : Nat := 16 * necUnit
/-- `NEC_HDR_SPACE` (00_scope.md R7). -/
def necHdrSpace : Nat := 8 * necUnit
/-- `NEC_BIT_MARK` (00_scope.md R7). -/
def necBitMark : Nat := 1 * necUnit
/-- `NEC_ONE_SPACE` (00_scope.md R7). -/
def necOneSpace : Nat := 3 * necUnit
/-- `NEC_ZERO_SPACE` (00_scope.md R7). -/
def necZeroSpace : Nat := 1 * necUnit
/-- `NEC_BITS` (00_scope.md R7). -/
def necBits : Nat := 32
/-- `NEC_ORDER` (00_scope.md R7; 90_conflicts.md C6). -/
def necOrder : BitOrder := .lsb
/-- `NEC_RPT_SPACE` (00_scope.md R7; 90_conflicts.md C8). -/
def necRptSpace : Nat := 2250
/-- `NEC_FULL_LEN`, elements (00_scope.md R7). -/
def necFullLen : Nat := 2 * necBits + 4
/-- `NEC_RPT_LEN`, elements (00_scope.md R7). -/
def necRptLen : Nat := 4

/-- `GAP_DEFAULT` (00_scope.md R8). -/
def gapDefault : Nat := 40000
/-- `META_FREQ`, kHz (00_scope.md R8). -/
def metaFreq : Nat := 38
/-- `META_FORMAT` (00_scope.md R8). -/
def metaFormat : String := "us"

/-- `PW_TRAILER` (00_scope.md R9). -/
def pwTrailer : Nat := 8000
/-- `PW_LEADER` (00_scope.md R9). -/
def pwLeader : Nat := 2800
/-- `PW_T0` (00_scope.md R9). -/
def pwT0 : Nat := 500
/-- `PW_T1` (00_scope.md R9). -/
def pwT1 : Nat := 1500
/-- `PW_MIN_PAIRS` (00_scope.md R9; 90_conflicts.md C4). -/
def pwMinPairs : Nat := 12
/-- `PW_FIELD_PAIRS` (00_scope.md R9). -/
def pwFieldPairs : Nat := 24

/-- `VW`, the most bits a value has (00_scope.md R10). -/
def valueWidth : Nat := 32
/-- `BUFCAP`, elements (00_scope.md R10). -/
def bufCap : Nat := 256

/-- FREE VALUE (log 1; 70_reset_and_hazards.md R222, U1): what element `k` of `BUF` holds after power-up number `n` until it
is first written, some 32-bit word, fixed once drawn. Arguments: `n`, then `k`. -/
opaque bufPowerUp : Nat → Nat → Word

/-- FREE VALUE (log 2; 00_scope.md R11, U19): the latency `LAT` of the `n`-th accepted command, counted in host accesses that
come between its acceptance and its completion. Finite, otherwise anything. -/
opaque latency : Nat → Nat

end Sys2Proof.Config
end

