-- ==== Sys2Proof/Machine/State.lean ====
section
/-! DEFINITION. The state of the block as plain data (10_state.md), the outcome of a command (60_exceptions.md), the events
the outside world offers, and the state after reset. -/

namespace Sys2Proof.Machine

/-- The failure codes by name (60_exceptions.md R191); their numbers are `ErrCode.number`. `STATUS.ERR` never holds
another value. -/
inductive ErrCode where
  | eNone
  | ePdShort
  | eNecLen
  | ePwShort
  | ePwCorrupt
  | ePdMark
  | ePdSpace
  | eNecHdrm
  | eNecHdrs
  | eNecStop
  | ePwUnclass
  | eEncRange
  | eNbits
  | eBadcmd
  | eBadlen
deriving DecidableEq, Repr

/-- The classes of the failure taxonomy (60_exceptions.md R197). -/
inductive ErrClass where
  | noFailure
  | structural
  | timing
  | misuse
deriving DecidableEq, Repr

/-- The fields of `STATUS` (10_state.md R31). The bits not listed there read 0 and have no storage. -/
structure Status where
  busy : Bool
  done : Bool
  ok : Bool
  rpt : Bool
  hzd : Bool
  err : ErrCode
deriving DecidableEq, Repr

/-- What happens outside the block, one access at a time (20_memory.md R54, R55, R59; 70_reset_and_hazards.md R220, R222). -/
inductive Event where
  /-- host read of the word at an index (R54) -/
  | read (index : Nat)
  /-- host write of the word at an index (R55) -/
  | write (index : Nat) (value : Word)
  /-- the host's pseudo-operation `WAIT`: read `STATUS` until `DONE = 1` (30_encoding.md R78) -/
  | wait
  /-- the platform applies reset (R220) -/
  | reset
  /-- the platform powers the block up again: a reset after which `BUF` is unspecified (R222) -/
  | powerUp
deriving DecidableEq, Repr

/-- A place of the register map (20_memory.md R52). -/
inductive Loc where
  | cmd
  | status
  | cfg
  | freq
  | format
  | opa
  | opb
  | encval
  | hdrm
  | hdrs
  | bitm
  | ones
  | zeros
  | gap
  | len
  | resl
  | resh
  | pwcust
  | pwpar
  | pwdata
  | erridx
  | errobs
  | errexp
  | buf (k : Nat)
deriving DecidableEq, Repr

/-- The timing buffer's storage: (element index, word) pairs of the elements written since power-up, in one canonical form
(`Memory.wf`: indices strictly rising and below `BUFCAP`). The unit is the whole word, the smallest the block can address
(20_memory.md R51; log 9). An unlisted element has no word here; what it reads as is the free value of log 1. -/
abbrev Memory := List (Nat × Word)

/-- The block's state (10_state.md R20), and the model's own fields of log 1 to 4. `CMD`, `CFG`, `FREQ` and `FORMAT` have no
storage (R27 to R30). There is no program counter (R21). -/
structure State where
  /-- `STATUS` (R31) -/
  status : Status
  /-- `OPA`, the observed duration (R22) -/
  opa : Word
  /-- `OPB`, the nominal duration (R22) -/
  opb : Word
  /-- `ENCVAL`, the value to encode (R23) -/
  encval : Word
  /-- `HDRM`, header mark (R24) -/
  hdrm : Word
  /-- `HDRS`, header space (R24) -/
  hdrs : Word
  /-- `BITM`, bit mark (R24) -/
  bitm : Word
  /-- `ONES`, one-space (R24) -/
  ones : Word
  /-- `ZEROS`, zero-space (R24) -/
  zeros : Word
  /-- `GAP`, trailing gap (R25) -/
  gap : Word
  /-- `LEN`, number of valid elements (R34) -/
  len : Word
  /-- `RESL`, low half of `RES` (R35) -/
  resl : Word
  /-- `RESH`, high half of `RES` (R35) -/
  resh : Word
  /-- `PWCUST`, customer code (R37) -/
  pwcust : Word
  /-- `PWPAR`, parity (R37) -/
  pwpar : Word
  /-- `PWDATA`, data (R37) -/
  pwdata : Word
  /-- `ERRIDX`, element index of a failure (R38) -/
  erridx : Word
  /-- `ERROBS`, observed value of a failure (R38) -/
  errobs : Word
  /-- `ERREXP`, expected value of a failure (R38) -/
  errexp : Word
  /-- `BUF`, the elements written since power-up (R33) -/
  buf : Memory
  /-- `PEND`, the hidden latch of the accepted command word (R36); meaningful only while `BUSY = 1` (log 7) -/
  pend : Word
  /-- MODEL'S OWN (log 2): host accesses that still come before the running command's commit -/
  lat : Nat
  /-- MODEL'S OWN (log 2): how many latencies have been drawn -/
  draws : Nat
  /-- MODEL'S OWN (log 1): the number of this power-up -/
  powerUps : Nat
  /-- MODEL'S OWN (log 3): what the outside world will do, oldest first -/
  inbox : List Event
  /-- MODEL'S OWN (log 4): the word the port returned for the host's latest read -/
  rdata : Option Word
deriving DecidableEq, Repr

/-- `Fail(code, idx, obs, exp)` (00_scope.md section 6). -/
structure Failure where
  code : ErrCode
  idx : Nat
  obs : Nat
  exp : Nat
deriving DecidableEq, Repr

/-- `Ok(...)`: what a successful command names; what it does not name is 0 (60_exceptions.md R192). `data` are the
elements an encoder writes to `BUF` from index 0; their number goes to `LEN`. -/
structure Results where
  res : Nat := 0
  rpt : Bool := false
  pwcust : Nat := 0
  pwpar : Nat := 0
  pwdata : Nat := 0
  data : Option (List Word) := none
deriving DecidableEq, Repr

/-- Every command ends in exactly one of two outcomes (60_exceptions.md R190). -/
inductive CmdOutcome where
  | ok (r : Results)
  | fail (f : Failure)
deriving DecidableEq, Repr

/-- Why the model stops with a fault. -/
inductive Fault where
  /-- Raised by a host access (`read` or `write` event) to an index the map does not list (20_memory.md R53): the spec gives
  it no meaning in a model. No command raises it. SAFE: the block goes on where the model stops (log 5). -/
  | unmappedIndex (index : Nat)
deriving DecidableEq, Repr

/-- Why the model refuses. -/
inductive Refusal where
  /-- Raised by an arm of `exec` whose instruction has no meaning yet; no arm is so. SAFE. -/
  | notModelled (mnemonic : String)
deriving DecidableEq, Repr

/-- The machine right after reset at power-up (70_reset_and_hazards.md R220, R222; 10_state.md closing table). -/
def State.reset : State where
  status := { busy := false, done := false, ok := false, rpt := false, hzd := false, err := .eNone }
  opa := 0
  opb := 0
  encval := 0
  hdrm := BitVec.ofNat 32 Config.necHdrMark
  hdrs := BitVec.ofNat 32 Config.necHdrSpace
  bitm := BitVec.ofNat 32 Config.necBitMark
  ones := BitVec.ofNat 32 Config.necOneSpace
  zeros := BitVec.ofNat 32 Config.necZeroSpace
  gap := BitVec.ofNat 32 Config.gapDefault
  len := 0
  resl := 0
  resh := 0
  pwcust := 0
  pwpar := 0
  pwdata := 0
  erridx := 0
  errobs := 0
  errexp := 0
  buf := []
  pend := 0
  lat := 0
  draws := 0
  powerUps := 0
  inbox := []
  rdata := none

end Sys2Proof.Machine
end

