-- ==== Sys2Proof/Machine/Flags.lean ====
section
/-! DEFINITION. `STATUS`: the code numbers (60_exceptions.md R191), the word the host reads (10_state.md R31), and what
acceptance, completion and a refused write do to its fields. -/

namespace Sys2Proof.Machine

/-- The number of a code: class in bits 7:4, number within the class in bits 3:0 (60_exceptions.md R191). -/
def ErrCode.number : ErrCode → Nat
  | .eNone => 0x00
  | .ePdShort => 0x10
  | .eNecLen => 0x11
  | .ePwShort => 0x12
  | .ePwCorrupt => 0x13
  | .ePdMark => 0x20
  | .ePdSpace => 0x21
  | .eNecHdrm => 0x22
  | .eNecHdrs => 0x23
  | .eNecStop => 0x24
  | .ePwUnclass => 0x25
  | .eEncRange => 0x30
  | .eNbits => 0x31
  | .eBadcmd => 0x32
  | .eBadlen => 0x33

/-- The class of a code (60_exceptions.md R191, R197). It changes nothing in the block's behaviour. -/
def ErrCode.errClass : ErrCode → ErrClass
  | .eNone => .noFailure
  | .ePdShort | .eNecLen | .ePwShort | .ePwCorrupt => .structural
  | .ePdMark | .ePdSpace | .eNecHdrm | .eNecHdrs | .eNecStop | .ePwUnclass => .timing
  | .eEncRange | .eNbits | .eBadcmd | .eBadlen => .misuse

/-- The number of a class (60_exceptions.md R197). -/
def ErrClass.number : ErrClass → Nat
  | .noFailure => 0
  | .structural => 1
  | .timing => 2
  | .misuse => 3

/-- The word the host reads at `STATUS` (10_state.md R31): bit 0 `BUSY`, 1 `DONE`, 2 `OK`, 3 `RPT`, 4 `HZD`, 15:8 `ERR`,
every other bit 0. -/
def Status.word (f : Status) : Word :=
  BitVec.ofNat 32 (f.busy.toNat + 2 * f.done.toNat + 4 * f.ok.toNat + 8 * f.rpt.toNat + 16 * f.hzd.toNat
    + 256 * f.err.number)

/-- Acceptance: `BUSY <- 1`, `DONE <- 0`, nothing else (30_encoding.md R82). -/
def Status.accepted (f : Status) : Status := { f with busy := true, done := false }

/-- The flags of a success; `HZD` keeps its value (60_exceptions.md R192). -/
def Status.succeeded (f : Status) (rpt : Bool) : Status :=
  { f with busy := false, done := true, ok := true, rpt := rpt, err := .eNone }

/-- The flags of a failure; `HZD` keeps its value (60_exceptions.md R193). -/
def Status.failed (f : Status) (code : ErrCode) : Status :=
  { f with busy := false, done := true, ok := false, rpt := false, err := code }

/-- A host write while busy (70_reset_and_hazards.md R226). -/
def Status.hazard (f : Status) : Status := { f with hzd := true }

/-- A host write of `v` to `STATUS` while idle: bit 4 = 1 clears `HZD`, every other written bit is ignored
(20_memory.md R57). -/
def Status.written (f : Status) (v : Word) : Status := if bits v 4 4 = 1 then { f with hzd := false } else f

end Sys2Proof.Machine
end

