-- ==== Sys2Proof/Machine/Ops.lean ====
section
/-! DEFINITION. The shared operations: the buffer's storage, the engine's element reads (20_memory.md R58), the commit
(60_exceptions.md R192, R193), which is this block's counterpart of taking an exception, acceptance (30_encoding.md R82), and
reset (70_reset_and_hazards.md R220, R222). -/

namespace Sys2Proof.Machine

/-- The canonical form of the buffer's storage: indices strictly rising, each below `BUFCAP`. An unlisted element has no
word in the storage, so no entry equals what an unlisted index holds. -/
abbrev Memory.wf (m : Memory) : Prop :=
  m.Pairwise (fun a b => a.1 < b.1) ∧ ∀ c ∈ m, c.1 < Config.bufCap

/-- The word stored at an index, if any was written since power-up. -/
def Memory.lookup : Memory → Nat → Option Word
  | [], _ => none
  | (j, u) :: m, k => if k = j then some u else Memory.lookup m k

/-- Store one word, keeping the indices rising. -/
def Memory.store : Memory → Nat → Word → Memory
  | [], k, v => [(k, v)]
  | (j, u) :: m, k, v =>
    if k < j then (k, v) :: (j, u) :: m
    else if k = j then (k, v) :: m
    else (j, u) :: Memory.store m k v

/-- Store words at consecutive indices from `k` on. -/
def Memory.storeAll : Memory → Nat → List Word → Memory
  | m, _, [] => m
  | m, k, v :: vs => Memory.storeAll (Memory.store m k v) (k + 1) vs

/-- `BUF[k]`. An element never written since power-up is some word, fixed once drawn (70_reset_and_hazards.md R222; log 1). -/
def State.elem (s : State) (k : Nat) : Word :=
  (Memory.lookup s.buf k).getD (Config.bufPowerUp s.powerUps k)

/-- `BUF[k]` as the unsigned duration the rules compute with (00_scope.md R12; 20_memory.md R58). -/
def State.dur (s : State) (k : Nat) : Nat := (s.elem k).toNat

/-- An encoder's writes: elements from index 0 and `LEN` (42_pulse_distance_encode.md R135, R136). Every other element keeps
its value (10_state.md R33). -/
def State.writeData (s : State) : Option (List Word) → State
  | none => s
  | some data => { s with buf := Memory.storeAll s.buf 0 data, len := BitVec.ofNat 32 data.length }

/-- Commit of a success (60_exceptions.md R192). -/
def commitOk (r : Results) (s : State) : State :=
  { s.writeData r.data with
    status := s.status.succeeded r.rpt
    resl := BitVec.ofNat 32 r.res
    resh := BitVec.ofNat 32 (r.res / 2 ^ 32)
    pwcust := BitVec.ofNat 32 r.pwcust
    pwpar := BitVec.ofNat 32 r.pwpar
    pwdata := BitVec.ofNat 32 r.pwdata
    erridx := 0
    errobs := 0
    errexp := 0 }

/-- Commit of a failure (60_exceptions.md R193): only the status and the result registers change. -/
def commitFail (f : Failure) (s : State) : State :=
  { s with
    status := s.status.failed f.code
    resl := 0
    resh := 0
    pwcust := 0
    pwpar := 0
    pwdata := 0
    erridx := BitVec.ofNat 32 f.idx
    errobs := BitVec.ofNat 32 f.obs
    errexp := BitVec.ofNat 32 f.exp }

/-- The commit, one atomic step (60_exceptions.md R190). -/
def commit (o : CmdOutcome) (s : State) : State :=
  match o with
  | .ok r => commitOk r s
  | .fail f => commitFail f s

/-- `if <check fails>: raise Fail(...)`: a failed check ends the command; the checks after it are not made
(60_exceptions.md R195). -/
def unlessFail (check : Option Failure) (rest : CmdOutcome) : CmdOutcome :=
  match check with
  | some f => .fail f
  | none => rest

/-- The completion of an illegal word `w` (30_encoding.md R77): it reads no operand. -/
def completeIllegal (w : Word) (s : State) : State := commitFail ⟨.eBadcmd, 0, w.toNat, 0⟩ s

/-- Acceptance of the word `w` (30_encoding.md R82). The latency is drawn here (log 2). -/
def State.accept (s : State) (w : Word) : State :=
  { s with pend := w, status := s.status.accepted, lat := Config.latency s.draws, draws := s.draws + 1 }

/-- Reset (70_reset_and_hazards.md R220): every register takes its reset value, a command in flight is abandoned, `BUF` is
not touched. The outside world's own fields are not the block's and stay (log 6). -/
def State.applyReset (s : State) : State :=
  { State.reset with
    buf := s.buf, powerUps := s.powerUps, draws := s.draws, inbox := s.inbox, rdata := s.rdata }

/-- Power-up (70_reset_and_hazards.md R222): reset, with `BUF` unspecified anew. -/
def State.applyPowerUp (s : State) : State :=
  { s.applyReset with buf := [], powerUps := s.powerUps + 1 }

end Sys2Proof.Machine
end

