-- ==== Sys2Proof/Machine/Operands.lean ====
section
/-! DEFINITION. The operand forms: the register map as the host addresses it (20_memory.md R52 to R57), and the common
operand checks of a command (30_encoding.md R80, steps 3 to 5). -/

namespace Sys2Proof.Machine

/-- The map of 20_memory.md R52; `none` is an unmapped index (R53). -/
def Loc.ofIndex (i : Nat) : Option Loc :=
  match i with
  | 0x000 => some .cmd
  | 0x001 => some .status
  | 0x002 => some .cfg
  | 0x003 => some .freq
  | 0x004 => some .format
  | 0x005 => some .opa
  | 0x006 => some .opb
  | 0x007 => some .encval
  | 0x008 => some .hdrm
  | 0x009 => some .hdrs
  | 0x00A => some .bitm
  | 0x00B => some .ones
  | 0x00C => some .zeros
  | 0x00D => some .gap
  | 0x00E => some .len
  | 0x010 => some .resl
  | 0x011 => some .resh
  | 0x012 => some .pwcust
  | 0x013 => some .pwpar
  | 0x014 => some .pwdata
  | 0x015 => some .erridx
  | 0x016 => some .errobs
  | 0x017 => some .errexp
  | i => if 0x100 ≤ i ∧ i < 0x100 + Config.bufCap then some (.buf (i - 0x100)) else none

/-- `CFG`: `TOL` in bits 7:0, `OFFSET` in bits 15:8 (10_state.md R29). -/
def cfgWord : Word := BitVec.ofNat 32 (Config.tol + 0x100 * Config.offset)

/-- `FREQ` (10_state.md R27). -/
def freqWord : Word := BitVec.ofNat 32 Config.metaFreq

/-- `FORMAT`: the two characters of `META_FORMAT`, the first in the low byte (10_state.md R28). -/
def formatWord : Word := 0x00007375#32

/-- What a host read returns (20_memory.md R54). `CMD` reads 0 (10_state.md R30). -/
def State.readLoc (s : State) : Loc → Word
  | .cmd => 0
  | .status => s.status.word
  | .cfg => cfgWord
  | .freq => freqWord
  | .format => formatWord
  | .opa => s.opa
  | .opb => s.opb
  | .encval => s.encval
  | .hdrm => s.hdrm
  | .hdrs => s.hdrs
  | .bitm => s.bitm
  | .ones => s.ones
  | .zeros => s.zeros
  | .gap => s.gap
  | .len => s.len
  | .resl => s.resl
  | .resh => s.resh
  | .pwcust => s.pwcust
  | .pwpar => s.pwpar
  | .pwdata => s.pwdata
  | .erridx => s.erridx
  | .errobs => s.errobs
  | .errexp => s.errexp
  | .buf k => s.elem k

/-- A host write while `BUSY = 0` (20_memory.md R55, R57): read-write places take the whole word, `CMD` accepts it as a
command, `STATUS` may clear `HZD`, read-only places ignore it. -/
def State.writeIdle (s : State) (v : Word) : Loc → State
  | .cmd => s.accept v
  | .status => { s with status := s.status.written v }
  | .cfg => s
  | .freq => s
  | .format => s
  | .opa => { s with opa := v }
  | .opb => { s with opb := v }
  | .encval => { s with encval := v }
  | .hdrm => { s with hdrm := v }
  | .hdrs => { s with hdrs := v }
  | .bitm => { s with bitm := v }
  | .ones => { s with ones := v }
  | .zeros => { s with zeros := v }
  | .gap => { s with gap := v }
  | .len => { s with len := v }
  | .resl => s
  | .resh => s
  | .pwcust => s
  | .pwpar => s
  | .pwdata => s
  | .erridx => s
  | .errobs => s
  | .errexp => s
  | .buf k => { s with buf := Memory.store s.buf k v }

/-- A host write (20_memory.md R55): while `BUSY = 1` it is ignored and sets `HZD` (70_reset_and_hazards.md R226). -/
def State.writeLoc (s : State) (l : Loc) (v : Word) : State :=
  if s.status.busy then { s with status := s.status.hazard } else s.writeIdle v l

/-- Step 3 of 30_encoding.md R80: `nbits <= VW`, then a multiple of 8 with `ord = LSB`. -/
def nbitsCheck (ord : BitOrder) (nbits : Nat) : Option Failure :=
  if Config.valueWidth < nbits then some ⟨.eNbits, 0, nbits, Config.valueWidth⟩
  else if ord = .lsb ∧ nbits % 8 ≠ 0 then some ⟨.eNbits, 0, nbits, 8⟩
  else none

/-- Step 4 of 30_encoding.md R80: `LEN <= BUFCAP` (20_memory.md R63). -/
def lenCheck (s : State) : Option Failure :=
  if Config.bufCap < s.len.toNat then some ⟨.eBadlen, 0, s.len.toNat, Config.bufCap⟩ else none

/-- Step 5 of 30_encoding.md R80: `ENCVAL < 2^nbits` (42_pulse_distance_encode.md R134). -/
def rangeCheck (s : State) (nbits : Nat) : Option Failure :=
  if 2 ^ nbits ≤ s.encval.toNat then some ⟨.eEncRange, 0, s.encval.toNat, nbits⟩ else none

end Sys2Proof.Machine
end

