-- ==== Sys2Proof/Machine/Encoder.lean ====
section
/-! DEFINITION. The pulse-distance encoder (42_pulse_distance_encode.md) and the commands `ENCPD`, `ENCFR`. -/

namespace Sys2Proof.Machine

/-- `bit(v, nbits, ord, i)`: the bit pair `i` carries (42_pulse_distance_encode.md R131). -/
def encodeBit (v nbits : Nat) (ord : BitOrder) (i : Nat) : Nat :=
  match ord with
  | .msb => v / 2 ^ (nbits - 1 - i) % 2
  | .lsb => v / 2 ^ (8 * (nbits / 8 - 1 - i / 8) + i % 8) % 2

/-- One pair: the nominal durations exactly (42_pulse_distance_encode.md R132). -/
def encodePair (b : Nat) (bitmark onespace zerospace : Word) : List Word :=
  [bitmark, if b = 1 then onespace else zerospace]

/-- `encode_pd`: the `2 x nbits` elements, mark first (42_pulse_distance_encode.md R130 to R132). -/
def encodePd (v nbits : Nat) (ord : BitOrder) (bitmark onespace zerospace : Word) : List Word :=
  (List.range nbits).flatMap fun i => encodePair (encodeBit v nbits ord i) bitmark onespace zerospace

/-- `encode_frame`: header, pairs, stop mark, trailing gap (42_pulse_distance_encode.md R133). -/
def encodeFrame (v nbits : Nat) (ord : BitOrder) (hdrmark hdrspace bitmark onespace zerospace gap : Word) : List Word :=
  [hdrmark, hdrspace] ++ encodePd v nbits ord bitmark onespace zerospace ++ [bitmark, gap]

/-- `ENCPD nbits, ord` (42_pulse_distance_encode.md R135), after the common checks (30_encoding.md R80). -/
def encpdOutcome (ord : BitOrder) (nbits : Nat) (s : State) : CmdOutcome :=
  unlessFail (nbitsCheck ord nbits) <|
  unlessFail (rangeCheck s nbits) <|
  .ok { data := some (encodePd s.encval.toNat nbits ord s.bitm s.ones s.zeros) }

/-- `ENCPD` (R135). -/
def execEncpd (ord : BitOrder) (nbits : Nat) (s : State) : Host.Outcome State Fault Refusal :=
  .next (commit (encpdOutcome ord nbits s) s)

/-- `ENCFR nbits, ord` (42_pulse_distance_encode.md R136), after the common checks (30_encoding.md R80). -/
def encfrOutcome (ord : BitOrder) (nbits : Nat) (s : State) : CmdOutcome :=
  unlessFail (nbitsCheck ord nbits) <|
  unlessFail (rangeCheck s nbits) <|
  .ok { data := some (encodeFrame s.encval.toNat nbits ord s.hdrm s.hdrs s.bitm s.ones s.zeros s.gap) }

/-- `ENCFR` (R136). -/
def execEncfr (ord : BitOrder) (nbits : Nat) (s : State) : Host.Outcome State Fault Refusal :=
  .next (commit (encfrOutcome ord nbits s) s)

end Sys2Proof.Machine
end

