-- ==== Sys2Proof/Machine/Window.lean ====
section
/-! DEFINITION. The tolerance window and the matchers (40_match_primitives.md), and the commands `TLO`, `THI`, `MMARK`,
`MSPACE`. -/

namespace Sys2Proof.Machine

/-- `100 x ticks_low(n)`, exact for every integer `n` (40_match_primitives.md R90). -/
def ticksLow100 (n : Int) : Int := n * (100 - (Config.tol : Int))

/-- `100 x ticks_high(n)`, exact for every integer `n` (40_match_primitives.md R91). -/
def ticksHigh100 (n : Int) : Int := n * (100 + (Config.tol : Int)) + 100

/-- `in_window(obs, n)` over the integers, both ends included (40_match_primitives.md R92). -/
def inWindow (obs : Nat) (n : Int) : Bool :=
  decide (ticksLow100 n ≤ 100 * (obs : Int)) && decide (100 * (obs : Int) ≤ ticksHigh100 n)

/-- `match_mark` (40_match_primitives.md R93, R94): the mark's nominal is corrected upwards. -/
def matchMark (obs nominal : Nat) : Bool := inWindow obs ((nominal : Int) + (Config.offset : Int))

/-- `match_space` (40_match_primitives.md R93, R95): the space's nominal is corrected downwards, possibly below zero (R101). -/
def matchSpace (obs nominal : Nat) : Bool := inWindow obs ((nominal : Int) - (Config.offset : Int))

/-- `TLO` (40_match_primitives.md R97). -/
def tloOutcome (s : State) : CmdOutcome := .ok { res := (ticksLow100 s.opb.toNat).toNat }

/-- `TLO` (R97). -/
def execTlo (s : State) : Host.Outcome State Fault Refusal := .next (commit (tloOutcome s) s)

/-- `THI` (40_match_primitives.md R98). -/
def thiOutcome (s : State) : CmdOutcome := .ok { res := (ticksHigh100 s.opb.toNat).toNat }

/-- `THI` (R98). -/
def execThi (s : State) : Host.Outcome State Fault Refusal := .next (commit (thiOutcome s) s)

/-- `MMARK` (40_match_primitives.md R99): a non-match is a success with result 0 (R102). -/
def mmarkOutcome (s : State) : CmdOutcome := .ok { res := (matchMark s.opa.toNat s.opb.toNat).toNat }

/-- `MMARK` (R99). -/
def execMmark (s : State) : Host.Outcome State Fault Refusal := .next (commit (mmarkOutcome s) s)

/-- `MSPACE` (40_match_primitives.md R100): a non-match is a success with result 0 (R102). -/
def mspaceOutcome (s : State) : CmdOutcome := .ok { res := (matchSpace s.opa.toNat s.opb.toNat).toNat }

/-- `MSPACE` (R100). -/
def execMspace (s : State) : Host.Outcome State Fault Refusal := .next (commit (mspaceOutcome s) s)

end Sys2Proof.Machine
end

