-- ==== Sys2Proof/Machine/PulseDistance.lean ====
section
/-! DEFINITION. The pulse-distance decoder (41_pulse_distance_decode.md) and the command `DECPD`. -/

namespace Sys2Proof.Machine

/-- The bit a space stands for: the one-space is tried first (41_pulse_distance_decode.md R112). -/
def spaceBit (space onespace zerospace : Nat) : Option Nat :=
  if matchSpace space onespace then some 1
  else if matchSpace space zerospace then some 0
  else none

/-- One step of the accumulation with bit `b` of pair `i` (41_pulse_distance_decode.md R113). -/
def accumulate (ord : BitOrder) (i acc b : Nat) : Nat :=
  match ord with
  | .msb => 2 * acc + b
  | .lsb => (if i % 8 = 0 then 256 * acc else acc) + b * 2 ^ (i % 8)

/-- The pairs `i, i + 1, ...` (`count` of them), the first pair of the data standing at element `base`
(41_pulse_distance_decode.md R112, R113): the mark before the space, the first failure ends the decode. A failure reports the
element index in the whole buffer (60_exceptions.md R194). -/
def decodePairs (elem : Nat → Nat) (base bitmark onespace zerospace : Nat) (ord : BitOrder) :
    (count i acc : Nat) → Except Failure Nat
  | 0, _, acc => .ok acc
  | count + 1, i, acc =>
    let mark := elem (base + 2 * i)
    let space := elem (base + 2 * i + 1)
    if matchMark mark bitmark then
      match spaceBit space onespace zerospace with
      | some b => decodePairs elem base bitmark onespace zerospace ord count (i + 1) (accumulate ord i acc b)
      | none => .error ⟨.ePdSpace, base + 2 * i + 1, space, onespace⟩
    else .error ⟨.ePdMark, base + 2 * i, mark, bitmark⟩

/-- `decode_pd(buf, len, nbits, ord, bitmark, onespace, zerospace)` (41_pulse_distance_decode.md R110 to R113): pairing
first, then the pairs. -/
def decodePd (elem : Nat → Nat) (len nbits : Nat) (ord : BitOrder) (bitmark onespace zerospace : Nat) :
    Except Failure Nat :=
  if len / 2 < nbits then .error ⟨.ePdShort, 0, len / 2, nbits⟩
  else decodePairs elem 0 bitmark onespace zerospace ord nbits 0 0

/-- A decoded value as the outcome of a command. -/
def valueOutcome : Except Failure Nat → CmdOutcome
  | .ok v => .ok { res := v }
  | .error f => .fail f

/-- `DECPD nbits, ord` (41_pulse_distance_decode.md R115), after the common checks (30_encoding.md R80). -/
def decpdOutcome (ord : BitOrder) (nbits : Nat) (s : State) : CmdOutcome :=
  unlessFail (nbitsCheck ord nbits) <|
  unlessFail (lenCheck s) <|
  valueOutcome (decodePd s.dur s.len.toNat nbits ord s.bitm.toNat s.ones.toNat s.zeros.toNat)

/-- `DECPD` (R115). -/
def execDecpd (ord : BitOrder) (nbits : Nat) (s : State) : Host.Outcome State Fault Refusal :=
  .next (commit (decpdOutcome ord nbits s) s)

end Sys2Proof.Machine
end

