-- ==== Sys2Proof/Machine/NecFrame.lean ====
section
/-! DEFINITION. The NEC frame decoder (44_nec_frame_decode.md) and the command `DECNEC`. It reads the compiled-in NEC
constants, never the parameter registers (R170). -/

namespace Sys2Proof.Machine

/-- Stage 1, length (44_nec_frame_decode.md R171). -/
def necLengthCheck (len : Nat) : Option Failure :=
  if len = Config.necFullLen ∨ len = Config.necRptLen then none else some ⟨.eNecLen, 0, len, Config.necFullLen⟩

/-- The element `k` must match the mark `nominal`, else `code` (44_nec_frame_decode.md R172, R175). -/
def markCheck (elem : Nat → Nat) (code : ErrCode) (k nominal : Nat) : Option Failure :=
  if matchMark (elem k) nominal then none else some ⟨code, k, elem k, nominal⟩

/-- The element `k` must match the space `nominal`, else `code` (44_nec_frame_decode.md R173). -/
def spaceCheck (elem : Nat → Nat) (code : ErrCode) (k nominal : Nat) : Option Failure :=
  if matchSpace (elem k) nominal then none else some ⟨code, k, elem k, nominal⟩

/-- The header space of stage 3: the repeat path has its own (44_nec_frame_decode.md R173; 90_conflicts.md C8). -/
def necHeaderSpace (len : Nat) : Nat :=
  if len = Config.necFullLen then Config.necHdrSpace else Config.necRptSpace

/-- Stage 4, data: 32 bits from element 2 on, full frame only (44_nec_frame_decode.md R174). -/
def necData (elem : Nat → Nat) (len : Nat) : Except Failure Nat :=
  if len = Config.necFullLen then
    decodePairs elem 2 Config.necBitMark Config.necOneSpace Config.necZeroSpace Config.necOrder Config.necBits 0 0
  else .ok 0

/-- Stage 5, the stop mark, and the outcome (44_nec_frame_decode.md R175, R176). -/
def necStop (elem : Nat → Nat) (len : Nat) : Except Failure Nat → CmdOutcome
  | .error f => .fail f
  | .ok v =>
    unlessFail (markCheck elem .eNecStop (len - 2) Config.necBitMark) <|
    .ok { res := v, rpt := decide (len = Config.necRptLen) }

/-- `decode_nec(buf, len)` (44_nec_frame_decode.md R170 to R176). -/
def decodeNec (elem : Nat → Nat) (len : Nat) : CmdOutcome :=
  unlessFail (necLengthCheck len) <|
  unlessFail (markCheck elem .eNecHdrm 0 Config.necHdrMark) <|
  unlessFail (spaceCheck elem .eNecHdrs 1 (necHeaderSpace len)) <|
  necStop elem len (necData elem len)

/-- `DECNEC` (44_nec_frame_decode.md R177), after the common checks (30_encoding.md R80). -/
def decnecOutcome (s : State) : CmdOutcome :=
  unlessFail (lenCheck s) <| decodeNec s.dur s.len.toNat

/-- `DECNEC` (R177). -/
def execDecnec (s : State) : Host.Outcome State Fault Refusal := .next (commit (decnecOutcome s) s)

end Sys2Proof.Machine
end

