-- ==== Sys2Proof/Machine/PulseWidth.lean ====
section
/-! DEFINITION. The pulse-width ("AEHA-style") decoder (43_pulse_width_decode.md) and the command `DECPW`. It uses no
tolerance window and no offset. -/

namespace Sys2Proof.Machine

/-- Pair `r` holds a duration above `limit` (strictly), mark or space (43_pulse_width_decode.md R152, R153). -/
def pairExceeds (elem : Nat → Nat) (r limit : Nat) : Bool :=
  decide (limit < elem (2 * r)) || decide (limit < elem (2 * r + 1))

/-- Step 2: the number of pairs kept, whole pairs before the first trailer (43_pulse_width_decode.md R152). -/
def pwKept (elem : Nat → Nat) (pairs : Nat) : Nat :=
  ((List.range pairs).find? fun r => pairExceeds elem r Config.pwTrailer).getD pairs

/-- Step 3: `base = 1` when pair 0 is a leader (43_pulse_width_decode.md R153). -/
def pwBase (elem : Nat → Nat) (kept : Nat) : Nat :=
  if 1 ≤ kept ∧ pairExceeds elem 0 Config.pwLeader then 1 else 0

/-- Step 4: validation of the pair count `n`, too short before corrupted (43_pulse_width_decode.md R154). -/
def pwCountCheck (n : Nat) : Option Failure :=
  if n < Config.pwMinPairs then some ⟨.ePwShort, 0, n, Config.pwMinPairs⟩
  else if n % 8 ≠ 0 then some ⟨.ePwCorrupt, 0, n, 8⟩
  else if n < Config.pwFieldPairs then some ⟨.ePwShort, 0, n, Config.pwFieldPairs⟩
  else none

/-- The element index of the space of data pair `q` (43_pulse_width_decode.md R155). -/
def pwSpaceIndex (base q : Nat) : Nat := 2 * (base + q) + 1

/-- Step 5: the first of the 24 data spaces that has no class (43_pulse_width_decode.md R155). -/
def pwClassCheck (elem : Nat → Nat) (base : Nat) : Option Failure :=
  ((List.range Config.pwFieldPairs).find? fun q => decide (Config.pwT1 < elem (pwSpaceIndex base q))).map fun q =>
    ⟨.ePwUnclass, pwSpaceIndex base q, elem (pwSpaceIndex base q), Config.pwT1⟩

/-- The bit of a space that has a class (43_pulse_width_decode.md R155). -/
def pwBit (space : Nat) : Nat := if space ≤ Config.pwT0 then 0 else 1

/-- Step 6: the field of `count` data pairs from pair `first` on, least significant bit first
(43_pulse_width_decode.md R156). -/
def pwField (elem : Nat → Nat) (base first count : Nat) : Nat :=
  ((List.range count).map fun q => pwBit (elem (pwSpaceIndex base (first + q))) * 2 ^ q).sum

/-- `decode_pw(buf, len)` (43_pulse_width_decode.md R150 to R156). -/
def decodePw (elem : Nat → Nat) (len : Nat) : CmdOutcome :=
  let kept := pwKept elem (len / 2)
  let base := pwBase elem kept
  unlessFail (pwCountCheck (kept - base)) <|
  unlessFail (pwClassCheck elem base) <|
  .ok { pwcust := pwField elem base 0 16, pwpar := pwField elem base 16 4, pwdata := pwField elem base 20 4 }

/-- `DECPW` (43_pulse_width_decode.md R157), after the common checks (30_encoding.md R80). -/
def decpwOutcome (s : State) : CmdOutcome :=
  unlessFail (lenCheck s) <| decodePw s.dur s.len.toNat

/-- `DECPW` (R157). -/
def execDecpw (s : State) : Host.Outcome State Fault Refusal := .next (commit (decpwOutcome s) s)

end Sys2Proof.Machine
end

