-- ==== Sys2Proof/Machine/Dispatch.lean ====
section
/-! DEFINITION. One arm per command: its execution and commit (30_encoding.md R80, step 6; R83). -/

namespace Sys2Proof.Machine

def exec (i : Instr) (s : State) : Host.Outcome State Fault Refusal :=
  match i with
  | .tlo => Sys2Proof.Machine.execTlo s
  | .thi => Sys2Proof.Machine.execThi s
  | .mmark => Sys2Proof.Machine.execMmark s
  | .mspace => Sys2Proof.Machine.execMspace s
  | .decpd ord nbits => Sys2Proof.Machine.execDecpd ord nbits s
  | .encpd ord nbits => Sys2Proof.Machine.execEncpd ord nbits s
  | .encfr ord nbits => Sys2Proof.Machine.execEncfr ord nbits s
  | .decpw => Sys2Proof.Machine.execDecpw s
  | .decnec => Sys2Proof.Machine.execDecnec s

end Sys2Proof.Machine
end

