-- ==== Sys2Proof/Machine/HostPort.lean ====
section
/-! DEFINITION. What one event from outside does (20_memory.md R53 to R57; 70_reset_and_hazards.md R220 to R227). -/

namespace Sys2Proof.Machine

/-- A host read of index `i` (20_memory.md R54): the word goes to the port, the block does not change. An unmapped index is
refused (R53; log 5). -/
def hostRead (i : Nat) (s : State) : Host.Outcome State Fault Refusal :=
  match Loc.ofIndex i with
  | none => .fault (.unmappedIndex i)
  | some l => .next { s with rdata := some (s.readLoc l) }

/-- A host write of `v` to index `i` (20_memory.md R55). An unmapped index is refused (R53; log 5). -/
def hostWrite (i : Nat) (v : Word) (s : State) : Host.Outcome State Fault Refusal :=
  match Loc.ofIndex i with
  | none => .fault (.unmappedIndex i)
  | some l => .next (s.writeLoc l v)

/-- One poll of the pseudo-operation `WAIT` (30_encoding.md R78): read `STATUS`; while `DONE = 0` the host polls again. -/
def hostWait (s : State) : State :=
  let polled := { s with rdata := some (s.readLoc .status) }
  if s.status.done then polled else { polled with inbox := .wait :: s.inbox }

/-- The effect of one event, already taken from the inbox. -/
def perform (e : Event) (s : State) : Host.Outcome State Fault Refusal :=
  match e with
  | .read i => hostRead i s
  | .write i v => hostWrite i v s
  | .wait => .next (hostWait s)
  | .reset => .next s.applyReset
  | .powerUp => .next s.applyPowerUp

end Sys2Proof.Machine
end

