-- ==== Sys2Proof/Machine/Engine.lean ====
section
/-! DEFINITION. The engine's completion of the pending command, and whose turn it is (30_encoding.md R83; 20_memory.md R59). -/

namespace Sys2Proof.Machine

/-- Completion: decode `PEND` (30_encoding.md R80), then execute and commit, or complete the illegal word (R77). -/
def complete (s : State) : Host.Outcome State Fault Refusal :=
  match decode s.pend with
  | .legal i => exec i s
  | .illegal _ => .next (completeIllegal s.pend s)

/-- The running command commits now: its latency has run out, or the host makes no further access before it (log 2). -/
def State.commitDue (s : State) : Bool := s.status.busy && (decide (s.lat = 0) || s.inbox.isEmpty)

/-- The outside world takes its turn: its oldest event leaves the inbox, and one access of the running command's latency
has passed (log 2). -/
def State.takeEvent (s : State) (rest : List Event) : State := { s with inbox := rest, lat := s.lat - 1 }

/-- One step: the engine's commit if it is due, else the oldest event from outside, else nothing happens (log 3). -/
def advance (s : State) : Host.Outcome State Fault Refusal :=
  if s.commitDue then complete s
  else
    match s.inbox with
    | [] => .next s
    | e :: rest => perform e (s.takeEvent rest)

/-- The word `w` stands accepted and its completion is the very next step: what 30_encoding.md R82 does, with no latency
left (log 3). -/
def State.issueNow (s : State) (w : Word) : State :=
  { s with pend := w, status := s.status.accepted, lat := 0 }

end Sys2Proof.Machine
end

