-- ==== Sys2Proof/Machine/Step.lean ====
section
/-! DEFINITION. The step, and the placing of a command word where the next step fetches it. -/

namespace Sys2Proof.Machine

/-- One step of the block and its surroundings (20_memory.md R59): a commit, an event from outside, or nothing. -/
def step (s : State) : Host.Outcome State Fault Refusal := advance s

/-- The command word `w`, numbered as the opcode table numbers it, accepted and due: the next step runs it (log 3). -/
def State.withFetchWord (s : State) (nbits w : Nat) : State := s.issueNow (tableWord nbits w)

end Sys2Proof.Machine
end

