-- ==== Sys2Proof/Safety.lean ====
section
/-! DEFINITION. The terms the statements use: the two outcomes of a command as a reader of the registers sees them, what a
frame keeps, the invariant of the machine, and what a command may depend on. -/

namespace Sys2Proof.Machine

/-- `RES = RESH x 2^32 + RESL` (10_state.md R35). -/
def State.res (s : State) : Nat := s.resh.toNat * 2 ^ 32 + s.resl.toNat

/-- The weight, as a power of two, of the bit that pair `i` of `n` carries (41_pulse_distance_decode.md R114;
42_pulse_distance_encode.md R131). -/
def bitWeight : BitOrder → Nat → Nat → Nat
  | .msb, n, i => n - 1 - i
  | .lsb, n, i => 8 * (n / 8 - 1 - i / 8) + i % 8

/-- From `s`, a command has committed a SUCCESS in `t` with these results (60_exceptions.md R192, registers and flags). -/
structure Succeeds (s t : State) (res : Nat) (rpt : Bool) (customer parity data : Nat) : Prop where
  busy : t.status.busy = false
  done : t.status.done = true
  ok : t.status.ok = true
  err : t.status.err = .eNone
  rpt : t.status.rpt = rpt
  hzd : t.status.hzd = s.status.hzd
  res : t.res = res
  pwcust : t.pwcust.toNat = customer
  pwpar : t.pwpar.toNat = parity
  pwdata : t.pwdata.toNat = data
  erridx : t.erridx = 0
  errobs : t.errobs = 0
  errexp : t.errexp = 0

/-- From `s`, a command has committed a FAILURE in `t` with this code and context (60_exceptions.md R193, registers and
flags). -/
structure FailsWith (s t : State) (code : ErrCode) (idx obs exp : Nat) : Prop where
  busy : t.status.busy = false
  done : t.status.done = true
  ok : t.status.ok = false
  err : t.status.err = code
  rpt : t.status.rpt = false
  hzd : t.status.hzd = s.status.hzd
  res : t.res = 0
  pwcust : t.pwcust = 0
  pwpar : t.pwpar = 0
  pwdata : t.pwdata = 0
  erridx : t.erridx.toNat = idx
  errobs : t.errobs.toNat = obs
  errexp : t.errexp.toNat = exp

/-- The operand and parameter registers, the hidden latch and the model's own fields read the same. -/
structure OperandsKept (s t : State) : Prop where
  opa : t.opa = s.opa
  opb : t.opb = s.opb
  encval : t.encval = s.encval
  hdrm : t.hdrm = s.hdrm
  hdrs : t.hdrs = s.hdrs
  bitm : t.bitm = s.bitm
  ones : t.ones = s.ones
  zeros : t.zeros = s.zeros
  gap : t.gap = s.gap
  pend : t.pend = s.pend
  lat : t.lat = s.lat
  draws : t.draws = s.draws
  powerUps : t.powerUps = s.powerUps
  inbox : t.inbox = s.inbox
  rdata : t.rdata = s.rdata

/-- `LEN` and every element of `BUF` read the same. -/
structure BufferKept (s t : State) : Prop where
  len : t.len = s.len
  elem : ∀ k, t.elem k = s.elem k

/-- All results of the block are zero (60_exceptions.md R193). -/
def State.resultsZero (s : State) : Prop :=
  s.resl = 0 ∧ s.resh = 0 ∧ s.pwcust = 0 ∧ s.pwpar = 0 ∧ s.pwdata = 0

/-- The invariant of the machine: the buffer's storage is canonical; the flags tell one story (a command is running or done,
never both; `OK` with no code, a finished command without a code is `OK`; `RPT` only with `OK` and no value); a recorded
failure leaves no result and a success no context; the pulse-width fields keep their widths (10_state.md R31, R37;
60_exceptions.md R192, R193). -/
structure State.Inv (s : State) : Prop where
  buf : Memory.wf s.buf
  busyNotDone : s.status.busy = true → s.status.done = false
  okNoCode : s.status.ok = true → s.status.err = .eNone
  doneNoCodeOk : s.status.done = true → s.status.err = .eNone → s.status.ok = true
  rptOk : s.status.rpt = true → s.status.ok = true ∧ s.resl = 0 ∧ s.resh = 0
  codeNoResults : s.status.err ≠ .eNone → s.resultsZero
  okNoContext : s.status.ok = true → s.erridx = 0 ∧ s.errobs = 0 ∧ s.errexp = 0
  pwcust : s.pwcust.toNat < 2 ^ 16
  pwpar : s.pwpar.toNat < 2 ^ 4
  pwdata : s.pwdata.toNat < 2 ^ 4

/-- The host-side event does not end the running command and touches a mapped index (20_memory.md R53). -/
def Event.harmless : Event → Bool
  | .read i => (Loc.ofIndex i).isSome
  | .write i _ => (Loc.ofIndex i).isSome
  | .wait => true
  | .reset => false
  | .powerUp => false

/-- `t` is `s` but for the sticky `HZD` and the outside world's own fields: what host accesses may change while a command
runs (70_reset_and_hazards.md R224, R226). -/
def SameButHazard (s t : State) : Prop :=
  t = { s with
    status := { s.status with hzd := t.status.hzd }
    lat := t.lat
    inbox := t.inbox
    rdata := t.rdata }

/-- `s` and `t` agree on the elements below `n`. -/
def SameElems (n : Nat) (s t : State) : Prop := ∀ k, k < n → s.elem k = t.elem k

/-- `s` and `t` agree on everything the command `i` may read: the table of 30_encoding.md R81, with the decoders reading
only below `LEN` (20_memory.md R58). -/
def ReadsAgree (i : Instr) (s t : State) : Prop :=
  match i with
  | .tlo => s.opb = t.opb
  | .thi => s.opb = t.opb
  | .mmark => s.opa = t.opa ∧ s.opb = t.opb
  | .mspace => s.opa = t.opa ∧ s.opb = t.opb
  | .decpd _ nbits => s.bitm = t.bitm ∧ s.ones = t.ones ∧ s.zeros = t.zeros ∧ s.len = t.len ∧
      SameElems (min (2 * nbits) s.len.toNat) s t
  | .encpd _ _ => s.encval = t.encval ∧ s.bitm = t.bitm ∧ s.ones = t.ones ∧ s.zeros = t.zeros
  | .encfr _ _ => s.encval = t.encval ∧ s.hdrm = t.hdrm ∧ s.hdrs = t.hdrs ∧ s.bitm = t.bitm ∧ s.ones = t.ones ∧
      s.zeros = t.zeros ∧ s.gap = t.gap
  | .decpw => s.len = t.len ∧ SameElems s.len.toNat s t
  | .decnec => s.len = t.len ∧ SameElems s.len.toNat s t

/-- `u` and `v` show the same outcome: every flag but `HZD`, every result and context register. -/
structure SameOutcome (u v : State) : Prop where
  busy : u.status.busy = v.status.busy
  done : u.status.done = v.status.done
  ok : u.status.ok = v.status.ok
  rpt : u.status.rpt = v.status.rpt
  err : u.status.err = v.status.err
  resl : u.resl = v.resl
  resh : u.resh = v.resh
  pwcust : u.pwcust = v.pwcust
  pwpar : u.pwpar = v.pwpar
  pwdata : u.pwdata = v.pwdata
  erridx : u.erridx = v.erridx
  errobs : u.errobs = v.errobs
  errexp : u.errexp = v.errexp

/-- The shape of an illegal word, by its fields: a reserved bit set (30_encoding.md R74), a reserved opcode (R76), or `ord` or
`nbits` set on a command that does not use them (R75). -/
def IllegalShape (w : Word) : Prop :=
  (w.toNat / 2 ^ 5 % 2 ^ 3 ≠ 0 ∨ w.toNat / 2 ^ 14 ≠ 0) ∨
  (w.toNat % 16 = 0 ∨ 10 ≤ w.toNat % 16) ∨
  (w.toNat % 16 ∈ [1, 2, 3, 4, 8, 9] ∧ (w.toNat / 2 ^ 4 % 2 ≠ 0 ∨ w.toNat / 2 ^ 8 % 2 ^ 6 ≠ 0))

/-- The read-write places of the map (10_state.md closing table). -/
def Loc.readWrite : Loc → Bool
  | .opa | .opb | .encval | .hdrm | .hdrs | .bitm | .ones | .zeros | .gap | .len | .buf _ => true
  | .cmd | .status | .cfg | .freq | .format | .resl | .resh | .pwcust | .pwpar | .pwdata | .erridx | .errobs
  | .errexp => false

/-- The next step goes on: it neither faults nor refuses. -/
def State.goesOn (s : State) : Prop := ∃ t, step s = .next t

end Sys2Proof.Machine
end

