-- ==== Sys2Proof/Certificates/Slice0/Obligations.lean ====
section
/-! DEFINITION. The statements for the provers. Each docstring names the rules of spec/ it formalises. -/

open Sys2Proof Sys2Proof.Machine

/-! ## Encoding (30_encoding.md) -/

/-- R71, R78: decoding an encoded well-formed command gives it back, with both fields at every value. -/
def Obligations.DecodeOfEncodeIsTheCommand : Prop :=
  ∀ i : Instr, WellFormed i → decode (encode i) = .legal i

/-- R79: the legal words are exactly those of the nine masks and matches, each word of one command only; and a legal word
with an `nbits` out of range fails with `E_NBITS`, not `E_BADCMD`. -/
def Obligations.LegalWordsAreTheNineMatches : Prop :=
  (∀ w : Word, (decode w = .legal .tlo ↔ w = 1) ∧ (decode w = .legal .thi ↔ w = 2) ∧
    (decode w = .legal .mmark ↔ w = 3) ∧ (decode w = .legal .mspace ↔ w = 4) ∧
    (decode w = .legal .decpw ↔ w = 8) ∧ (decode w = .legal .decnec ↔ w = 9)) ∧
  (∀ w : Word, ((∃ o n, decode w = .legal (.decpd o n)) ↔ w &&& 0xFFFFC0EF#32 = 5) ∧
    ((∃ o n, decode w = .legal (.encpd o n)) ↔ w &&& 0xFFFFC0EF#32 = 6) ∧
    ((∃ o n, decode w = .legal (.encfr o n)) ↔ w &&& 0xFFFFC0EF#32 = 7)) ∧
  (∀ (w : Word) (i : Instr), decode w = .legal i → encode i = w ∧ WellFormed i) ∧
  (∀ (o : BitOrder) (n : Nat) (s : State), (32 < n ∨ o = .lsb ∧ n % 8 ≠ 0) →
    ∃ t u v, exec (.decpd o n) s = .next t ∧ t.status.err = .eNbits ∧
      exec (.encpd o n) s = .next u ∧ u.status.err = .eNbits ∧
      exec (.encfr o n) s = .next v ∧ v.status.err = .eNbits)

/-- Words of the table of 30_encoding.md section 5, each decoded to the command it stands for. -/
def Obligations.WrittenOutWordsDecode : Prop :=
  decode 0x00000001#32 = .legal .tlo ∧ decode 0x00000002#32 = .legal .thi ∧
  decode 0x00000003#32 = .legal .mmark ∧ decode 0x00000004#32 = .legal .mspace ∧
  decode 0x00002015#32 = .legal (.decpd .lsb 32) ∧ decode 0x00000306#32 = .legal (.encpd .msb 3) ∧
  decode 0x00002017#32 = .legal (.encfr .lsb 32) ∧ decode 0x00000008#32 = .legal .decpw ∧
  decode 0x00000009#32 = .legal .decnec

/-- R74, R75, R76, R77: an illegal word is accepted like any other and completes with `E_BADCMD`, touching nothing else; and
every word is either illegal by its fields or one of the legal forms of R79, so each command without fields has one word. -/
def Obligations.IllegalWordFailsWithBadcmd : Prop :=
  (∀ (w : Word) (s : State), s.status.busy = false →
    ∃ t, perform (.write 0 w) s = .next t ∧ t.pend = w ∧ t.status.busy = true ∧ t.status.done = false) ∧
  (∀ s : State, s.commitDue = true → IllegalShape s.pend →
    ∃ t, step s = .next t ∧ FailsWith s t .eBadcmd 0 s.pend.toNat 0 ∧ OperandsKept s t ∧ BufferKept s t) ∧
  (∀ w : Word, ¬ IllegalShape w ↔
    w.toNat ∈ [1, 2, 3, 4, 8, 9] ∨ (w &&& 0xFFFFC0EF#32).toNat ∈ [5, 6, 7])

/-! ## The step (20_memory.md R59, 30_encoding.md R80, R83) -/

/-- R80, R83: when the commit is due and `PEND` holds a command's word, the step is that command's execution. When the commit
is due (`commitDue`) is the model's own notion (log 2, log 3), not a rule of the spec. -/
def Obligations.StepRunsThePendingCommand : Prop :=
  ∀ (s : State) (i : Instr), s.commitDue = true → decode s.pend = .legal i → step s = exec i s

/-- MODEL'S CHOICE (log 3): a placed word is decoded and run by the very next step. -/
def Obligations.PlacedWordRunsNext : Prop :=
  ∀ (s : State) (nbits w : Nat) (i : Instr), decodeTableWord nbits w = some i →
    step (s.withFetchWord nbits w) = exec i (s.withFetchWord nbits w)

/-- MODEL'S CHOICE (log 2, 3): while the commit is not due, a step takes the oldest event of the inbox and performs it, and
with no event the state stays. -/
def Obligations.StepTakesTheOldestEvent : Prop :=
  ∀ s : State, s.commitDue = false →
    (s.inbox = [] → step s = .next s) ∧
    (∀ e q, s.inbox = e :: q → step s = perform e (s.takeEvent q))

/-! ## Window and matchers (40_match_primitives.md) -/

/-- R90, R91, R92: the two bounds are the exact rationals `3n/4` and `5n/4 + 1`, and the window is the closed interval between
them, in integers as R92 has it. `ticks_low(543) = 407.25`. -/
def Obligations.WindowIsClosedRationalInterval : Prop :=
  (∀ n : Int, (ticksLow100 n : ℚ) / 100 = (n : ℚ) * (100 - Config.tol) / 100 ∧ (ticksLow100 n : ℚ) / 100 = 3 * n / 4 ∧
    (ticksHigh100 n : ℚ) / 100 = (n : ℚ) * (100 + Config.tol) / 100 + 1 ∧
    (ticksHigh100 n : ℚ) / 100 = 5 * n / 4 + 1) ∧
  (ticksLow100 543 : ℚ) / 100 = 407.25 ∧
  (∀ (obs : Nat) (n : Int),
    (inWindow obs n = true ↔ (ticksLow100 n : ℚ) / 100 ≤ obs ∧ (obs : ℚ) ≤ (ticksHigh100 n : ℚ) / 100) ∧
    (inWindow obs n = true ↔
      100 * (obs : Int) ≥ n * (100 - Config.tol) ∧ 100 * (obs : Int) ≤ n * (100 + Config.tol) + 100))

/-- R96, which the spec marks `[derived: from rules R90, R91 and R92]`: the integer form, its accepted set for `n >= 0`, the set for 560, and the untruncated lower bound at 543. -/
def Obligations.WindowIntegerForm : Prop :=
  (∀ (obs : Nat) (n : Int), inWindow obs n = true ↔ 4 * (obs : Int) ≥ 3 * n ∧ 4 * (obs : Int) ≤ 5 * n + 4) ∧
  (∀ obs n : Nat, inWindow obs (n : Int) = true ↔ (3 * n + 3) / 4 ≤ obs ∧ obs ≤ 5 * n / 4 + 1) ∧
  (∀ obs : Nat, inWindow obs 560 = true ↔ 420 ≤ obs ∧ obs ≤ 701) ∧
  inWindow 407 543 = false

/-- R94, R95 with the signs of 90_conflicts.md C1: marks are matched around `nominal + 20`, spaces around `nominal - 20`. -/
def Obligations.MatchersShiftTheNominal : Prop :=
  ∀ obs nominal : Nat,
    (matchMark obs nominal = true ↔
      4 * (obs : Int) ≥ 3 * ((nominal : Int) + 20) ∧ 4 * (obs : Int) ≤ 5 * ((nominal : Int) + 20) + 4) ∧
    (matchSpace obs nominal = true ↔
      4 * (obs : Int) ≥ 3 * ((nominal : Int) - 20) ∧ 4 * (obs : Int) ≤ 5 * ((nominal : Int) - 20) + 4) ∧
    (matchMark obs nominal = inWindow obs ((nominal : Int) + 20)) ∧
    (matchSpace obs nominal = inWindow obs ((nominal : Int) - 20))

/-- R101 (a) to (c), which the spec marks `[derived: from rules R92, R93, R94 and R95]`: small nominals, and when a nominal lies in its own window. -/
def Obligations.MatcherCornerCases : Prop :=
  (∀ obs nominal : Nat, nominal < 20 → matchSpace obs nominal = false) ∧
  (∀ obs : Nat, matchSpace obs 20 = true ↔ obs ≤ 1) ∧
  (∀ obs : Nat, matchSpace obs 21 = true ↔ obs = 1 ∨ obs = 2) ∧
  (∀ obs : Nat, matchMark obs 0 = true ↔ 15 ≤ obs ∧ obs ≤ 26) ∧
  (∀ n : Nat, matchMark n n = true ↔ 60 ≤ n) ∧
  (∀ n : Nat, matchSpace n n = true ↔ 96 ≤ n)

/-- R97: `TLO` answers `OPB x 75` as a 64-bit scalar and is a success. -/
def Obligations.TloScalesTheLowerBound : Prop :=
  encode .tlo = 1 ∧ ∀ s : State, ∃ t, exec .tlo s = .next t ∧
    Succeeds s t (s.opb.toNat * 75) false 0 0 0 ∧ OperandsKept s t ∧ BufferKept s t

/-- R98: `THI` answers `OPB x 125 + 100` and is a success. -/
def Obligations.ThiScalesTheUpperBound : Prop :=
  encode .thi = 2 ∧ ∀ s : State, ∃ t, exec .thi s = .next t ∧
    Succeeds s t (s.opb.toNat * 125 + 100) false 0 0 0 ∧ OperandsKept s t ∧ BufferKept s t

/-- R99, R102: `MMARK` answers 1 or 0 and succeeds either way. -/
def Obligations.MmarkAnswersOneOrZero : Prop :=
  encode .mmark = 3 ∧ ∀ s : State, ∃ t, exec .mmark s = .next t ∧
    Succeeds s t (if 3 * (s.opb.toNat + 20) ≤ 4 * s.opa.toNat ∧ 4 * s.opa.toNat ≤ 5 * (s.opb.toNat + 20) + 4
      then 1 else 0) false 0 0 0 ∧ OperandsKept s t ∧ BufferKept s t

/-- R100, R102: `MSPACE` answers 1 or 0 and succeeds either way; with `OPB < 20` it answers 0. -/
def Obligations.MspaceAnswersOneOrZero : Prop :=
  encode .mspace = 4 ∧ ∀ s : State, ∃ t, exec .mspace s = .next t ∧
    Succeeds s t (if 3 * ((s.opb.toNat : Int) - 20) ≤ 4 * s.opa.toNat ∧
        4 * (s.opa.toNat : Int) ≤ 5 * ((s.opb.toNat : Int) - 20) + 4
      then 1 else 0) false 0 0 0 ∧
    (s.opb.toNat < 20 → t.res = 0) ∧ OperandsKept s t ∧ BufferKept s t

/-! ## Common checks (30_encoding.md R80) -/

/-- R116: for `DECPD`, a bit count above 32, or with `LSB` not a multiple of 8, fails with `E_NBITS` before the buffer or `LEN`
is looked at, with 32 or 8 as the expected value; `nbits = 0` is allowed and returns 0 without looking at the buffer. -/
def Obligations.DecpdBitCountRule : Prop :=
  (∀ (o : BitOrder) (n : Nat) (s : State), n < 64 → (32 < n ∨ o = .lsb ∧ n % 8 ≠ 0) →
    ∃ t, exec (.decpd o n) s = .next t ∧ FailsWith s t .eNbits 0 n (if 32 < n then 32 else 8) ∧
      OperandsKept s t ∧ BufferKept s t) ∧
  (∀ (o : BitOrder) (s : State), s.len.toNat ≤ 256 →
    ∃ t, exec (.decpd o 0) s = .next t ∧ Succeeds s t 0 false 0 0 0 ∧ OperandsKept s t ∧ BufferKept s t)

/-- R63: a decoder that finds `LEN > BUFCAP` fails with `E_BADLEN`. -/
def Obligations.LengthBeyondCapacityFails : Prop :=
  ∀ (o : BitOrder) (n : Nat) (s : State), n ≤ 32 → (o = .lsb → n % 8 = 0) → 256 < s.len.toNat →
    ∀ i ∈ [Instr.decpd o n, .decpw, .decnec],
      ∃ t, exec i s = .next t ∧ FailsWith s t .eBadlen 0 s.len.toNat 256 ∧ OperandsKept s t ∧ BufferKept s t

/-- R134: both encoders refuse a bit count out of range with `E_NBITS`, and then a value that needs more than `nbits` bits with
`E_ENC_RANGE`; a failed encode writes nothing to `BUF` or `LEN`. -/
def Obligations.EncoderMisuseIsRefused : Prop :=
  ∀ (o : BitOrder) (n : Nat) (s : State), n < 64 → ∀ i ∈ [Instr.encpd o n, .encfr o n],
    ∃ t, exec i s = .next t ∧ OperandsKept s t ∧ (t.status.ok = false → BufferKept s t) ∧
      (32 < n → FailsWith s t .eNbits 0 n 32) ∧
      (n ≤ 32 → o = .lsb → n % 8 ≠ 0 → FailsWith s t .eNbits 0 n 8) ∧
      (n ≤ 32 → (o = .lsb → n % 8 = 0) → 2 ^ n ≤ s.encval.toNat → FailsWith s t .eEncRange 0 s.encval.toNat n)

/-! ## Pulse-distance decoder (41_pulse_distance_decode.md) -/

/-- R111: fewer than `nbits` pairs fail at once with `E_PD_SHORT`. -/
def Obligations.DecpdTooFewPairsFails : Prop :=
  ∀ (o : BitOrder) (n : Nat) (s : State), n ≤ 32 → (o = .lsb → n % 8 = 0) → s.len.toNat ≤ 256 →
    s.len.toNat / 2 < n →
    ∃ t, exec (.decpd o n) s = .next t ∧ FailsWith s t .ePdShort 0 (s.len.toNat / 2) n ∧
      OperandsKept s t ∧ BufferKept s t

/-- R112: pairs are judged in order, the mark before the space, the one-space before the zero-space; the first bad element
ends the decode and is reported. -/
def Obligations.DecpdFirstBadElementIsReported : Prop :=
  ∀ (o : BitOrder) (n : Nat) (s : State) (r : Nat), n ≤ 32 → (o = .lsb → n % 8 = 0) → s.len.toNat ≤ 256 →
    n ≤ s.len.toNat / 2 → r < n →
    (∀ j < r, matchMark (s.dur (2 * j)) s.bitm.toNat = true ∧
      (matchSpace (s.dur (2 * j + 1)) s.ones.toNat = true ∨ matchSpace (s.dur (2 * j + 1)) s.zeros.toNat = true)) →
    (matchMark (s.dur (2 * r)) s.bitm.toNat = false →
      ∃ t, exec (.decpd o n) s = .next t ∧ FailsWith s t .ePdMark (2 * r) (s.dur (2 * r)) s.bitm.toNat ∧
        OperandsKept s t ∧ BufferKept s t) ∧
    (matchMark (s.dur (2 * r)) s.bitm.toNat = true → matchSpace (s.dur (2 * r + 1)) s.ones.toNat = false →
      matchSpace (s.dur (2 * r + 1)) s.zeros.toNat = false →
      ∃ t, exec (.decpd o n) s = .next t ∧
        FailsWith s t .ePdSpace (2 * r + 1) (s.dur (2 * r + 1)) s.ones.toNat ∧ OperandsKept s t ∧ BufferKept s t)

/-- R112, R113, R114, R115: when every pair is good, `DECPD` succeeds with the sum of the bits at their weights (`bitWeight`,
written out here for both orders); a space in the one-space window is a 1 even if it is in the other too. The value is
below `2^nbits`. The closed form is R114's, which the spec marks `[derived: from rule R113]`. -/
def Obligations.DecpdValueIsTheWeightedSum : Prop :=
  (∀ n i, bitWeight .msb n i = n - 1 - i ∧ bitWeight .lsb n i = 8 * (n / 8 - 1 - i / 8) + i % 8) ∧
  ∀ (o : BitOrder) (n : Nat) (s : State), n ≤ 32 → (o = .lsb → n % 8 = 0) → s.len.toNat ≤ 256 →
    n ≤ s.len.toNat / 2 →
    (∀ j < n, matchMark (s.dur (2 * j)) s.bitm.toNat = true ∧
      (matchSpace (s.dur (2 * j + 1)) s.ones.toNat = true ∨ matchSpace (s.dur (2 * j + 1)) s.zeros.toNat = true)) →
    ∃ t, exec (.decpd o n) s = .next t ∧
      Succeeds s t
        (∑ i ∈ Finset.range n, (if matchSpace (s.dur (2 * i + 1)) s.ones.toNat then 1 else 0) * 2 ^ bitWeight o n i)
        false 0 0 0 ∧
      t.res < 2 ^ n ∧ OperandsKept s t ∧ BufferKept s t

/-! ## Pulse-distance encoder (42_pulse_distance_encode.md) -/

/-- R132, with R130, R135 and the bit selection of R131 (whose formulas the spec marks derived): `ENCPD` writes `BITM` and the
space of the selected bit for every pair, sets `LEN`, and leaves every other element. -/
def Obligations.EncpdWritesThePairs : Prop :=
  ∀ (o : BitOrder) (n : Nat) (s : State), n ≤ 32 → (o = .lsb → n % 8 = 0) → s.encval.toNat < 2 ^ n →
    ∃ t, exec (.encpd o n) s = .next t ∧ Succeeds s t 0 false 0 0 0 ∧ OperandsKept s t ∧
      t.len.toNat = 2 * n ∧
      (∀ i < n, t.elem (2 * i) = s.bitm ∧
        t.elem (2 * i + 1) = if s.encval.toNat / 2 ^ bitWeight o n i % 2 = 1 then s.ones else s.zeros) ∧
      (∀ k, 2 * n ≤ k → t.elem k = s.elem k)

/-- R133, R136, with the bit selection of R131 (whose formulas the spec marks derived): `ENCFR` writes header, pairs, stop
mark and gap, sets `LEN`, and leaves every other element. -/
def Obligations.EncfrWritesTheFrame : Prop :=
  ∀ (o : BitOrder) (n : Nat) (s : State), n ≤ 32 → (o = .lsb → n % 8 = 0) → s.encval.toNat < 2 ^ n →
    ∃ t, exec (.encfr o n) s = .next t ∧ Succeeds s t 0 false 0 0 0 ∧ OperandsKept s t ∧
      t.len.toNat = 2 * n + 4 ∧ t.elem 0 = s.hdrm ∧ t.elem 1 = s.hdrs ∧
      (∀ i < n, t.elem (2 + 2 * i) = s.bitm ∧
        t.elem (3 + 2 * i) = if s.encval.toNat / 2 ^ bitWeight o n i % 2 = 1 then s.ones else s.zeros) ∧
      t.elem (2 + 2 * n) = s.bitm ∧ t.elem (3 + 2 * n) = s.gap ∧
      (∀ k, 2 * n + 4 ≤ k → t.elem k = s.elem k)

/-- R138, general part: what `ENCPD` writes, `DECPD` with the same fields and parameters reads back, provided the three
conditions on the parameters; the NEC values satisfy them. The spec marks R138 as derived from R131, R112, R114, R101. -/
def Obligations.DecpdInvertsEncpd : Prop :=
  (∀ (o : BitOrder) (n : Nat) (s : State), n ≤ 32 → (o = .lsb → n % 8 = 0) → s.encval.toNat < 2 ^ n →
    matchMark s.bitm.toNat s.bitm.toNat = true → matchSpace s.ones.toNat s.ones.toNat = true →
    matchSpace s.zeros.toNat s.zeros.toNat = true → matchSpace s.zeros.toNat s.ones.toNat = false →
    ∃ t u, exec (.encpd o n) s = .next t ∧ exec (.decpd o n) t = .next u ∧
      Succeeds t u s.encval.toNat false 0 0 0) ∧
  (matchMark 560 560 = true ∧ matchSpace 1680 1680 = true ∧ matchSpace 560 560 = true ∧ matchSpace 560 1680 = false)

/-- R138, last sentence, and R221: after `ENCFR 32, LSB` with the reset parameters, `DECNEC` succeeds with `RES = ENCVAL`.
The spec marks both as derived. -/
def Obligations.DecnecInvertsEncfr : Prop :=
  ∀ s : State, s.hdrm = State.reset.hdrm → s.hdrs = State.reset.hdrs → s.bitm = State.reset.bitm →
    s.ones = State.reset.ones → s.zeros = State.reset.zeros →
    ∃ t u, exec (.encfr .lsb 32) s = .next t ∧ exec .decnec t = .next u ∧
      Succeeds t u s.encval.toNat false 0 0 0

/-! ## Pulse-width decoder (43_pulse_width_decode.md) -/

/-- R152: whole pairs before the first pair with a duration above 8000 are kept, all if there is none. R153: pair 0 of what
is kept is dropped exactly when it holds a duration above 2800. -/
def Obligations.TrailerCutAndLeaderDrop : Prop :=
  ∀ (e : Nat → Nat) (pairs : Nat),
    pwKept e pairs ≤ pairs ∧
    (∀ r < pwKept e pairs, e (2 * r) ≤ 8000 ∧ e (2 * r + 1) ≤ 8000) ∧
    (pwKept e pairs < pairs → 8000 < e (2 * pwKept e pairs) ∨ 8000 < e (2 * pwKept e pairs + 1)) ∧
    (∀ kept, (pwBase e kept = 1 ↔ 1 ≤ kept ∧ (2800 < e 0 ∨ 2800 < e 1)) ∧ (pwBase e kept = 1 ∨ pwBase e kept = 0))

/-- R154: the three length checks, in their order; the decode goes on exactly when the count is a multiple of 8 and at
least 24. -/
def Obligations.PulseWidthPairCountRule : Prop :=
  (∀ s : State, s.len.toNat ≤ 256 →
    ∀ n, n = pwKept s.dur (s.len.toNat / 2) - pwBase s.dur (pwKept s.dur (s.len.toNat / 2)) →
    (n < 12 → ∃ t, exec .decpw s = .next t ∧ FailsWith s t .ePwShort 0 n 12 ∧ OperandsKept s t ∧ BufferKept s t) ∧
    (12 ≤ n → n % 8 ≠ 0 →
      ∃ t, exec .decpw s = .next t ∧ FailsWith s t .ePwCorrupt 0 n 8 ∧ OperandsKept s t ∧ BufferKept s t) ∧
    (n = 16 → ∃ t, exec .decpw s = .next t ∧ FailsWith s t .ePwShort 0 16 24 ∧ OperandsKept s t ∧ BufferKept s t)) ∧
  (∀ n, pwCountCheck n = none ↔ n % 8 = 0 ∧ 24 ≤ n)

/-- R155: a data space above 1500 fails with `E_PW_UNCLASS` at the first such space; marks are not judged. -/
def Obligations.UnclassifiedSpaceFails : Prop :=
  ∀ (s : State) (base n q : Nat), s.len.toNat ≤ 256 →
    base = pwBase s.dur (pwKept s.dur (s.len.toNat / 2)) → n = pwKept s.dur (s.len.toNat / 2) - base →
    n % 8 = 0 → 24 ≤ n → q < 24 →
    (∀ j < q, s.dur (2 * (base + j) + 1) ≤ 1500) → 1500 < s.dur (2 * (base + q) + 1) →
    ∃ t, exec .decpw s = .next t ∧
      FailsWith s t .ePwUnclass (2 * (base + q) + 1) (s.dur (2 * (base + q) + 1)) 1500 ∧
      OperandsKept s t ∧ BufferKept s t

/-- R155, R156, R157: with 24 classified data spaces `DECPW` succeeds; bit `q` is 0 up to 500 and 1 above, each field least
significant bit first: customer code pairs 0 to 15, parity 16 to 19, data 20 to 23. -/
def Obligations.DecpwExtractsTheThreeFields : Prop :=
  ∀ (s : State) (base n : Nat), s.len.toNat ≤ 256 →
    base = pwBase s.dur (pwKept s.dur (s.len.toNat / 2)) → n = pwKept s.dur (s.len.toNat / 2) - base →
    n % 8 = 0 → 24 ≤ n → (∀ q < 24, s.dur (2 * (base + q) + 1) ≤ 1500) →
    ∃ t, exec .decpw s = .next t ∧
      Succeeds s t 0 false
        (∑ q ∈ Finset.range 16, (if s.dur (2 * (base + q) + 1) ≤ 500 then 0 else 1) * 2 ^ q)
        (∑ q ∈ Finset.range 4, (if s.dur (2 * (base + (16 + q)) + 1) ≤ 500 then 0 else 1) * 2 ^ q)
        (∑ q ∈ Finset.range 4, (if s.dur (2 * (base + (20 + q)) + 1) ≤ 500 then 0 else 1) * 2 ^ q) ∧
      t.pwcust.toNat < 2 ^ 16 ∧ t.pwpar.toNat < 2 ^ 4 ∧ t.pwdata.toNat < 2 ^ 4 ∧
      OperandsKept s t ∧ BufferKept s t

/-! ## NEC frame decoder (44_nec_frame_decode.md) -/

/-- R171: any length but 68 and 4 fails with `E_NEC_LEN`. -/
def Obligations.NecWrongLengthFails : Prop :=
  ∀ s : State, s.len.toNat ≤ 256 → s.len.toNat ≠ 68 → s.len.toNat ≠ 4 →
    ∃ t, exec .decnec s = .next t ∧ FailsWith s t .eNecLen 0 s.len.toNat 68 ∧ OperandsKept s t ∧ BufferKept s t

/-- R172, R173: the header mark is judged first, against 8960; then the space, against 4480 on the full path and 2250 on the
repeat path. -/
def Obligations.NecBadHeaderFails : Prop :=
  ∀ s : State, s.len.toNat = 68 ∨ s.len.toNat = 4 →
    (¬ (6735 ≤ s.dur 0 ∧ s.dur 0 ≤ 11226) →
      ∃ t, exec .decnec s = .next t ∧ FailsWith s t .eNecHdrm 0 (s.dur 0) 8960 ∧ OperandsKept s t ∧ BufferKept s t) ∧
    (6735 ≤ s.dur 0 ∧ s.dur 0 ≤ 11226 → s.len.toNat = 68 → ¬ (3345 ≤ s.dur 1 ∧ s.dur 1 ≤ 5576) →
      ∃ t, exec .decnec s = .next t ∧ FailsWith s t .eNecHdrs 1 (s.dur 1) 4480 ∧ OperandsKept s t ∧ BufferKept s t) ∧
    (6735 ≤ s.dur 0 ∧ s.dur 0 ≤ 11226 → s.len.toNat = 4 → ¬ (1673 ≤ s.dur 1 ∧ s.dur 1 ≤ 2788) →
      ∃ t, exec .decnec s = .next t ∧ FailsWith s t .eNecHdrs 1 (s.dur 1) 2250 ∧ OperandsKept s t ∧ BufferKept s t)

/-- R174: a bad bit pair of a full frame is reported with its index in the whole frame, the mark before the space. -/
def Obligations.NecFirstBadElementIsReported : Prop :=
  ∀ (s : State) (r : Nat), s.len.toNat = 68 → matchMark (s.dur 0) 8960 = true → matchSpace (s.dur 1) 4480 = true →
    r < 32 →
    (∀ j < r, matchMark (s.dur (2 + 2 * j)) 560 = true ∧
      (matchSpace (s.dur (3 + 2 * j)) 1680 = true ∨ matchSpace (s.dur (3 + 2 * j)) 560 = true)) →
    (matchMark (s.dur (2 + 2 * r)) 560 = false →
      ∃ t, exec .decnec s = .next t ∧ FailsWith s t .ePdMark (2 + 2 * r) (s.dur (2 + 2 * r)) 560 ∧
        OperandsKept s t ∧ BufferKept s t) ∧
    (matchMark (s.dur (2 + 2 * r)) 560 = true → matchSpace (s.dur (3 + 2 * r)) 1680 = false →
      matchSpace (s.dur (3 + 2 * r)) 560 = false →
      ∃ t, exec .decnec s = .next t ∧ FailsWith s t .ePdSpace (3 + 2 * r) (s.dur (3 + 2 * r)) 1680 ∧
        OperandsKept s t ∧ BufferKept s t)

/-- R175, R176: with a good header and good data, the stop mark decides: bad, `E_NEC_STOP` at `LEN - 2`; good, a success,
with the 32-bit value of the data (byte grouped, the first byte most significant) and `RPT = 0` on the full path. -/
def Obligations.NecFullFrameDecodes : Prop :=
  ∀ s : State, s.len.toNat = 68 → matchMark (s.dur 0) 8960 = true → matchSpace (s.dur 1) 4480 = true →
    (∀ j < 32, matchMark (s.dur (2 + 2 * j)) 560 = true ∧
      (matchSpace (s.dur (3 + 2 * j)) 1680 = true ∨ matchSpace (s.dur (3 + 2 * j)) 560 = true)) →
    (matchMark (s.dur 66) 560 = true →
      ∃ t, exec .decnec s = .next t ∧
        Succeeds s t
          (∑ i ∈ Finset.range 32, (if matchSpace (s.dur (3 + 2 * i)) 1680 then 1 else 0) *
            2 ^ (8 * (3 - i / 8) + i % 8)) false 0 0 0 ∧ OperandsKept s t ∧ BufferKept s t) ∧
    (matchMark (s.dur 66) 560 = false →
      ∃ t, exec .decnec s = .next t ∧ FailsWith s t .eNecStop 66 (s.dur 66) 560 ∧ OperandsKept s t ∧ BufferKept s t)

/-- R175, R176: on the repeat path, with a good header the stop mark at element 2 decides; a success has `RPT = 1` and
`RES = 0`. The last element is not examined. -/
def Obligations.NecRepeatFrameIsRecognised : Prop :=
  ∀ s : State, s.len.toNat = 4 → matchMark (s.dur 0) 8960 = true → matchSpace (s.dur 1) 2250 = true →
    (435 ≤ s.dur 2 ∧ s.dur 2 ≤ 726 →
      ∃ t, exec .decnec s = .next t ∧ Succeeds s t 0 true 0 0 0 ∧ OperandsKept s t ∧ BufferKept s t) ∧
    (¬ (435 ≤ s.dur 2 ∧ s.dur 2 ≤ 726) →
      ∃ t, exec .decnec s = .next t ∧ FailsWith s t .eNecStop 2 (s.dur 2) 560 ∧ OperandsKept s t ∧ BufferKept s t)

/-! ## Outcomes and frames (60_exceptions.md, 00_scope.md R13) -/

/-- R190, R192, R193: every command, in every state, completes in a success, with no code and no context, or in a failure,
with a code and no result; never busy, always done; `HZD` is kept. -/
def Obligations.EveryCommandSucceedsOrFails : Prop :=
  ∀ (i : Instr) (s : State), ∃ t, exec i s = .next t ∧
    ((∃ res rpt c p d, Succeeds s t res rpt c p d) ∨
      (∃ code idx obs exp, code ≠ .eNone ∧ FailsWith s t code idx obs exp))

/-- R196: a failing command has no effect on `BUF`, `LEN`, or any operand or parameter register. -/
def Obligations.FailureLeavesThePreparedState : Prop :=
  ∀ (i : Instr) (s t : State), exec i s = .next t → t.status.ok = false → OperandsKept s t ∧ BufferKept s t

/-- Frame of every command (R33, R58; 10_state.md closing table): operand and parameter registers are never written by the
engine, and only `ENCPD` and `ENCFR` write `BUF` or `LEN`. -/
def Obligations.OnlyEncodersWriteTheBuffer : Prop :=
  ∀ (i : Instr) (s t : State), exec i s = .next t →
    OperandsKept s t ∧ t.status.hzd = s.status.hzd ∧
    ((∀ o n, i ≠ .encpd o n ∧ i ≠ .encfr o n) → BufferKept s t)

/-- R13, R58, R81: the outcome of a command, and what it writes to `BUF` and `LEN`, is a function of its operands alone: of no
status bit, no earlier result, no other register, and no element at or above `LEN`. -/
def Obligations.OutcomeDependsOnOperandsOnly : Prop :=
  ∀ (i : Instr) (s t u v : State), ReadsAgree i s t → exec i s = .next u → exec i t = .next v →
    SameOutcome u v ∧
    ((BufferKept s u ∧ BufferKept t v) ∨
      (u.len = v.len ∧ SameElems u.len.toNat u v ∧
        (∀ k, u.len.toNat ≤ k → u.elem k = s.elem k) ∧ (∀ k, v.len.toNat ≤ k → v.elem k = t.elem k)))

/-- R191, R197: the code numbers, and the class in bits 7:4. -/
def Obligations.CodeNumbersCarryTheirClass : Prop :=
  (∀ c : ErrCode, c.number / 16 = c.errClass.number ∧ c.number < 256) ∧
  (∀ c d : ErrCode, c.number = d.number → c = d) ∧
  ErrCode.eNone.number = 0x00 ∧ ErrCode.ePdShort.number = 0x10 ∧ ErrCode.eNecLen.number = 0x11 ∧
  ErrCode.ePwShort.number = 0x12 ∧ ErrCode.ePwCorrupt.number = 0x13 ∧ ErrCode.ePdMark.number = 0x20 ∧
  ErrCode.ePdSpace.number = 0x21 ∧ ErrCode.eNecHdrm.number = 0x22 ∧ ErrCode.eNecHdrs.number = 0x23 ∧
  ErrCode.eNecStop.number = 0x24 ∧ ErrCode.ePwUnclass.number = 0x25 ∧ ErrCode.eEncRange.number = 0x30 ∧
  ErrCode.eNbits.number = 0x31 ∧ ErrCode.eBadcmd.number = 0x32 ∧ ErrCode.eBadlen.number = 0x33

/-- R31: the layout of the word a host reads at `STATUS`. -/
def Obligations.StatusWordLayout : Prop :=
  ∀ f : Status, f.word.getLsbD 0 = f.busy ∧ f.word.getLsbD 1 = f.done ∧ f.word.getLsbD 2 = f.ok ∧
    f.word.getLsbD 3 = f.rpt ∧ f.word.getLsbD 4 = f.hzd ∧ bits f.word 7 5 = 0 ∧
    bits f.word 15 8 = f.err.number ∧ bits f.word 31 16 = 0

/-! ## Host accesses (20_memory.md, 70_reset_and_hazards.md) -/

/-- R82: a write to `CMD` while idle latches the word, sets `BUSY`, clears `DONE` and changes nothing else of the block (`lat`
and `draws` are the model's own, log 2); while busy it is not accepted and not queued. -/
def Obligations.CmdWriteIsAccepted : Prop :=
  (∀ (w : Word) (s : State), s.status.busy = false →
    ∃ t, perform (.write 0x000 w) s = .next t ∧ t.pend = w ∧
      t.status = { s.status with busy := true, done := false } ∧
      t = { s with pend := t.pend, status := t.status, lat := t.lat, draws := t.draws }) ∧
  (∀ (w : Word) (s : State), s.status.busy = true →
    ∃ t, perform (.write 0x000 w) s = .next t ∧ t = { s with status := { s.status with hzd := true } })

/-- R226: a write to any mapped index while busy is ignored and sets `HZD`, and `HZD` stays through every commit. -/
def Obligations.WriteWhileBusySetsHazard : Prop :=
  (∀ (i : Nat) (v : Word) (s : State), s.status.busy = true → (Loc.ofIndex i).isSome = true →
    ∃ t, perform (.write i v) s = .next t ∧ t = { s with status := { s.status with hzd := true } }) ∧
  (∀ s t : State, step s = .next t → s.commitDue = true → t.status.hzd = s.status.hzd)

/-- R54, R27 to R30: a read, busy or not, returns the current value of the place and changes nothing of the block; `CMD` reads
0 and the constant registers read their constants. -/
def Obligations.ReadHasNoSideEffect : Prop :=
  ∀ s : State,
    (∀ p ∈ [(0x000, 0#32), (0x001, s.status.word), (0x002, 0x00001419#32), (0x003, 38#32), (0x004, 0x00007375#32),
        (0x005, s.opa), (0x006, s.opb), (0x007, s.encval), (0x008, s.hdrm), (0x009, s.hdrs), (0x00A, s.bitm),
        (0x00B, s.ones), (0x00C, s.zeros), (0x00D, s.gap), (0x00E, s.len), (0x010, s.resl), (0x011, s.resh),
        (0x012, s.pwcust), (0x013, s.pwpar), (0x014, s.pwdata), (0x015, s.erridx), (0x016, s.errobs),
        (0x017, s.errexp)],
      perform (.read p.1) s = .next { s with rdata := some p.2 }) ∧
    (∀ k < 256, perform (.read (0x100 + k)) s = .next { s with rdata := some (s.elem k) })

/-- R55, R228: a write to a read-write place while idle takes all 32 bits at that place, and every other place of the map
reads as before. -/
def Obligations.WriteLandsAtItsPlaceOnly : Prop :=
  ∀ (i : Nat) (l : Loc) (v : Word) (s : State), s.status.busy = false → Loc.ofIndex i = some l → l.readWrite = true →
    ∃ t, perform (.write i v) s = .next t ∧ t.readLoc l = v ∧ (∀ l', l' ≠ l → t.readLoc l' = s.readLoc l') ∧
      t = { s with
        opa := t.opa, opb := t.opb, encval := t.encval, hdrm := t.hdrm, hdrs := t.hdrs, bitm := t.bitm,
        ones := t.ones, zeros := t.zeros, gap := t.gap, len := t.len, buf := t.buf }

/-- R55, R57: while idle, a write to a read-only register changes nothing, and a write to `STATUS` clears `HZD` when its bit
4 is 1 and does nothing else. -/
def Obligations.ReadOnlyWritesAreIgnored : Prop :=
  ∀ (v : Word) (s : State), s.status.busy = false →
    (∀ i ∈ [0x002, 0x003, 0x004, 0x010, 0x011, 0x012, 0x013, 0x014, 0x015, 0x016, 0x017],
      perform (.write i v) s = .next s) ∧
    perform (.write 0x001 v) s =
      .next (if v.getLsbD 4 then { s with status := { s.status with hzd := false } } else s)

/-- R53: an access to an unmapped index, and to no other, is refused; here, the fault of log 5. -/
def Obligations.UnmappedAccessStops : Prop :=
  ∀ (i : Nat) (v : Word) (s : State),
    ((i = 0x00F ∨ (0x018 ≤ i ∧ i ≤ 0x0FF) ∨ 0x200 ≤ i) →
      perform (.read i) s = .fault (.unmappedIndex i) ∧ perform (.write i v) s = .fault (.unmappedIndex i)) ∧
    (¬ (i = 0x00F ∨ (0x018 ≤ i ∧ i ≤ 0x0FF) ∨ 0x200 ≤ i) →
      (∃ t, perform (.read i) s = .next t) ∧ ∃ t, perform (.write i v) s = .next t)

/-- R220: what reset leaves: `STATUS` reads 0, every register its reset value, `BUF` as it was, a command in flight
abandoned. -/
def Obligations.ResetLeavesTheResetValues : Prop :=
  ∀ s : State, ∃ t, perform .reset s = .next t ∧ t.readLoc .status = 0 ∧ t.status.busy = false ∧
    t.opa = 0 ∧ t.opb = 0 ∧ t.encval = 0 ∧ t.len = 0 ∧
    t.hdrm.toNat = 8960 ∧ t.hdrs.toNat = 4480 ∧ t.bitm.toNat = 560 ∧ t.ones.toNat = 1680 ∧ t.zeros.toNat = 560 ∧
    t.gap.toNat = 40000 ∧ t.resultsZero ∧ t.erridx = 0 ∧ t.errobs = 0 ∧ t.errexp = 0 ∧
    (∀ k, t.elem k = s.elem k)

/-- R220, R222 and the free value of log 1: a power-up leaves what a reset leaves, but every element of `BUF` is drawn anew;
whatever the draw is, it is the same at every later read until the element is written. -/
def Obligations.PowerUpRedrawsTheBuffer : Prop :=
  ∀ s : State, ∃ t u, perform .powerUp s = .next t ∧ perform .reset s = .next u ∧
    (∀ k, t.elem k = Config.bufPowerUp (s.powerUps + 1) k) ∧
    t = { u with buf := t.buf, powerUps := s.powerUps + 1 }

/-- R78 and log 11 (MODEL'S CHOICE: one poll a step): `WAIT` reads `STATUS` and, while `DONE` reads 0, stays the next thing the
host does; it changes nothing of the block. -/
def Obligations.WaitPollsUntilDone : Prop :=
  ∀ s : State, ∃ t, perform .wait s = .next t ∧ t.rdata = some s.status.word ∧
    (s.status.done = true → t.inbox = s.inbox) ∧ (s.status.done = false → t.inbox = .wait :: s.inbox) ∧
    t = { s with rdata := t.rdata, inbox := t.inbox }

/-- R222: with `LEN = 0`, as after reset, every decoder fails on length first: `DECPD n` with `n > 0`, `DECPW`, `DECNEC`; and
`DECPD 0` succeeds. -/
def Obligations.EmptyBufferFailsOnLength : Prop :=
  ∀ s : State, s.len = 0 →
    (∀ o n, 0 < n → n ≤ 32 → (o = .lsb → n % 8 = 0) →
      ∃ t, exec (.decpd o n) s = .next t ∧ FailsWith s t .ePdShort 0 0 n) ∧
    (∃ t, exec .decpw s = .next t ∧ FailsWith s t .ePwShort 0 0 12) ∧
    (∃ t, exec .decnec s = .next t ∧ FailsWith s t .eNecLen 0 0 68) ∧
    (∀ o, ∃ t, exec (.decpd o 0) s = .next t ∧ Succeeds s t 0 false 0 0 0)

/-! ## Headline results -/

/-- R83, R59, R226: an accepted command completes within `lat + 1` steps, whatever harmless accesses the host makes meanwhile,
and commits exactly what it would have committed at once, but for the sticky `HZD`. Holds for every latency `lat`, the free
value of log 2. Left out by `Event.harmless`: an access to an unmapped index, which stops the model (log 5), and a reset or
power-up, which abandons the command (R220). -/
def Obligations.RunningCommandIsUndisturbed : Prop :=
  ∀ s : State, s.status.busy = true → (∀ e ∈ s.inbox, e.harmless = true) →
    ∃ k ≤ s.lat + 1, ∃ t u, Sys2Proof.core.run k s = .next t ∧ complete s = .next u ∧
      t.status.busy = false ∧ t.status.done = true ∧ SameButHazard u t

/-- R20, R31, R37, R192, R193 and the storage of log 9: every step keeps the invariant. -/
def Obligations.StepKeepsTheInvariant : Prop :=
  ∀ s t : State, s.Inv → step s = .next t → t.Inv

/-- The state right after reset meets the invariant. -/
def Obligations.ResetMeetsTheInvariant : Prop :=
  State.reset.Inv

/-- R190 (no command stops the block) with R53 (log 5): a step stops only at a host access to an unmapped index. -/
def Obligations.OnlyUnmappedAccessStopsAStep : Prop :=
  ∀ s : State, s.goesOn ∨
    ∃ i q, step s = .fault (.unmappedIndex i) ∧ Loc.ofIndex i = none ∧
      (s.inbox = .read i :: q ∨ ∃ v, s.inbox = .write i v :: q)
end

