-- ==== Sys2Proof/Laws/State.lean ====
section
/-! SUPPORT. One lemma per field per shared update of State, so that no later proof unfolds a record update. -/

namespace Sys2Proof.Machine

/-! The commit of a failure. -/

@[simp] theorem commitFail_status (f : Failure) (s : State) : (commitFail f s).status = s.status.failed f.code := rfl
@[simp] theorem commitFail_opa (f : Failure) (s : State) : (commitFail f s).opa = s.opa := rfl
@[simp] theorem commitFail_opb (f : Failure) (s : State) : (commitFail f s).opb = s.opb := rfl
@[simp] theorem commitFail_encval (f : Failure) (s : State) : (commitFail f s).encval = s.encval := rfl
@[simp] theorem commitFail_hdrm (f : Failure) (s : State) : (commitFail f s).hdrm = s.hdrm := rfl
@[simp] theorem commitFail_hdrs (f : Failure) (s : State) : (commitFail f s).hdrs = s.hdrs := rfl
@[simp] theorem commitFail_bitm (f : Failure) (s : State) : (commitFail f s).bitm = s.bitm := rfl
@[simp] theorem commitFail_ones (f : Failure) (s : State) : (commitFail f s).ones = s.ones := rfl
@[simp] theorem commitFail_zeros (f : Failure) (s : State) : (commitFail f s).zeros = s.zeros := rfl
@[simp] theorem commitFail_gap (f : Failure) (s : State) : (commitFail f s).gap = s.gap := rfl
@[simp] theorem commitFail_len (f : Failure) (s : State) : (commitFail f s).len = s.len := rfl
@[simp] theorem commitFail_resl (f : Failure) (s : State) : (commitFail f s).resl = 0 := rfl
@[simp] theorem commitFail_resh (f : Failure) (s : State) : (commitFail f s).resh = 0 := rfl
@[simp] theorem commitFail_pwcust (f : Failure) (s : State) : (commitFail f s).pwcust = 0 := rfl
@[simp] theorem commitFail_pwpar (f : Failure) (s : State) : (commitFail f s).pwpar = 0 := rfl
@[simp] theorem commitFail_pwdata (f : Failure) (s : State) : (commitFail f s).pwdata = 0 := rfl
@[simp] theorem commitFail_erridx (f : Failure) (s : State) : (commitFail f s).erridx = BitVec.ofNat 32 f.idx := rfl
@[simp] theorem commitFail_errobs (f : Failure) (s : State) : (commitFail f s).errobs = BitVec.ofNat 32 f.obs := rfl
@[simp] theorem commitFail_errexp (f : Failure) (s : State) : (commitFail f s).errexp = BitVec.ofNat 32 f.exp := rfl
@[simp] theorem commitFail_buf (f : Failure) (s : State) : (commitFail f s).buf = s.buf := rfl
@[simp] theorem commitFail_pend (f : Failure) (s : State) : (commitFail f s).pend = s.pend := rfl
@[simp] theorem commitFail_lat (f : Failure) (s : State) : (commitFail f s).lat = s.lat := rfl
@[simp] theorem commitFail_draws (f : Failure) (s : State) : (commitFail f s).draws = s.draws := rfl
@[simp] theorem commitFail_powerUps (f : Failure) (s : State) : (commitFail f s).powerUps = s.powerUps := rfl
@[simp] theorem commitFail_inbox (f : Failure) (s : State) : (commitFail f s).inbox = s.inbox := rfl
@[simp] theorem commitFail_rdata (f : Failure) (s : State) : (commitFail f s).rdata = s.rdata := rfl

/-! An encoder's data. -/

@[simp] theorem writeData_none (s : State) : s.writeData none = s := rfl
@[simp] theorem writeData_status (s : State) (d : Option (List Word)) : (s.writeData d).status = s.status := by
  cases d <;> rfl
@[simp] theorem writeData_opa (s : State) (d : Option (List Word)) : (s.writeData d).opa = s.opa := by
  cases d <;> rfl
@[simp] theorem writeData_opb (s : State) (d : Option (List Word)) : (s.writeData d).opb = s.opb := by
  cases d <;> rfl
@[simp] theorem writeData_encval (s : State) (d : Option (List Word)) : (s.writeData d).encval = s.encval := by
  cases d <;> rfl
@[simp] theorem writeData_hdrm (s : State) (d : Option (List Word)) : (s.writeData d).hdrm = s.hdrm := by
  cases d <;> rfl
@[simp] theorem writeData_hdrs (s : State) (d : Option (List Word)) : (s.writeData d).hdrs = s.hdrs := by
  cases d <;> rfl
@[simp] theorem writeData_bitm (s : State) (d : Option (List Word)) : (s.writeData d).bitm = s.bitm := by
  cases d <;> rfl
@[simp] theorem writeData_ones (s : State) (d : Option (List Word)) : (s.writeData d).ones = s.ones := by
  cases d <;> rfl
@[simp] theorem writeData_zeros (s : State) (d : Option (List Word)) : (s.writeData d).zeros = s.zeros := by
  cases d <;> rfl
@[simp] theorem writeData_gap (s : State) (d : Option (List Word)) : (s.writeData d).gap = s.gap := by
  cases d <;> rfl
@[simp] theorem writeData_resl (s : State) (d : Option (List Word)) : (s.writeData d).resl = s.resl := by
  cases d <;> rfl
@[simp] theorem writeData_resh (s : State) (d : Option (List Word)) : (s.writeData d).resh = s.resh := by
  cases d <;> rfl
@[simp] theorem writeData_pwcust (s : State) (d : Option (List Word)) : (s.writeData d).pwcust = s.pwcust := by
  cases d <;> rfl
@[simp] theorem writeData_pwpar (s : State) (d : Option (List Word)) : (s.writeData d).pwpar = s.pwpar := by
  cases d <;> rfl
@[simp] theorem writeData_pwdata (s : State) (d : Option (List Word)) : (s.writeData d).pwdata = s.pwdata := by
  cases d <;> rfl
@[simp] theorem writeData_erridx (s : State) (d : Option (List Word)) : (s.writeData d).erridx = s.erridx := by
  cases d <;> rfl
@[simp] theorem writeData_errobs (s : State) (d : Option (List Word)) : (s.writeData d).errobs = s.errobs := by
  cases d <;> rfl
@[simp] theorem writeData_errexp (s : State) (d : Option (List Word)) : (s.writeData d).errexp = s.errexp := by
  cases d <;> rfl
@[simp] theorem writeData_pend (s : State) (d : Option (List Word)) : (s.writeData d).pend = s.pend := by
  cases d <;> rfl
@[simp] theorem writeData_lat (s : State) (d : Option (List Word)) : (s.writeData d).lat = s.lat := by
  cases d <;> rfl
@[simp] theorem writeData_draws (s : State) (d : Option (List Word)) : (s.writeData d).draws = s.draws := by
  cases d <;> rfl
@[simp] theorem writeData_powerUps (s : State) (d : Option (List Word)) : (s.writeData d).powerUps = s.powerUps := by
  cases d <;> rfl
@[simp] theorem writeData_inbox (s : State) (d : Option (List Word)) : (s.writeData d).inbox = s.inbox := by
  cases d <;> rfl
@[simp] theorem writeData_rdata (s : State) (d : Option (List Word)) : (s.writeData d).rdata = s.rdata := by
  cases d <;> rfl
@[simp] theorem writeData_some_buf (s : State) (l : List Word) :
    (s.writeData (some l)).buf = Memory.storeAll s.buf 0 l := rfl
@[simp] theorem writeData_some_len (s : State) (l : List Word) :
    (s.writeData (some l)).len = BitVec.ofNat 32 l.length := rfl

/-! The commit of a success. -/

@[simp] theorem commitOk_status (r : Results) (s : State) : (commitOk r s).status = s.status.succeeded r.rpt := rfl
@[simp] theorem commitOk_opa (r : Results) (s : State) : (commitOk r s).opa = s.opa := writeData_opa s r.data
@[simp] theorem commitOk_opb (r : Results) (s : State) : (commitOk r s).opb = s.opb := writeData_opb s r.data
@[simp] theorem commitOk_encval (r : Results) (s : State) : (commitOk r s).encval = s.encval := writeData_encval s r.data
@[simp] theorem commitOk_hdrm (r : Results) (s : State) : (commitOk r s).hdrm = s.hdrm := writeData_hdrm s r.data
@[simp] theorem commitOk_hdrs (r : Results) (s : State) : (commitOk r s).hdrs = s.hdrs := writeData_hdrs s r.data
@[simp] theorem commitOk_bitm (r : Results) (s : State) : (commitOk r s).bitm = s.bitm := writeData_bitm s r.data
@[simp] theorem commitOk_ones (r : Results) (s : State) : (commitOk r s).ones = s.ones := writeData_ones s r.data
@[simp] theorem commitOk_zeros (r : Results) (s : State) : (commitOk r s).zeros = s.zeros := writeData_zeros s r.data
@[simp] theorem commitOk_gap (r : Results) (s : State) : (commitOk r s).gap = s.gap := writeData_gap s r.data
@[simp] theorem commitOk_len (r : Results) (s : State) : (commitOk r s).len = (s.writeData r.data).len := rfl
@[simp] theorem commitOk_resl (r : Results) (s : State) : (commitOk r s).resl = BitVec.ofNat 32 r.res := rfl
@[simp] theorem commitOk_resh (r : Results) (s : State) : (commitOk r s).resh = BitVec.ofNat 32 (r.res / 2 ^ 32) := rfl
@[simp] theorem commitOk_pwcust (r : Results) (s : State) : (commitOk r s).pwcust = BitVec.ofNat 32 r.pwcust := rfl
@[simp] theorem commitOk_pwpar (r : Results) (s : State) : (commitOk r s).pwpar = BitVec.ofNat 32 r.pwpar := rfl
@[simp] theorem commitOk_pwdata (r : Results) (s : State) : (commitOk r s).pwdata = BitVec.ofNat 32 r.pwdata := rfl
@[simp] theorem commitOk_erridx (r : Results) (s : State) : (commitOk r s).erridx = 0 := rfl
@[simp] theorem commitOk_errobs (r : Results) (s : State) : (commitOk r s).errobs = 0 := rfl
@[simp] theorem commitOk_errexp (r : Results) (s : State) : (commitOk r s).errexp = 0 := rfl
@[simp] theorem commitOk_buf (r : Results) (s : State) : (commitOk r s).buf = (s.writeData r.data).buf := rfl
@[simp] theorem commitOk_pend (r : Results) (s : State) : (commitOk r s).pend = s.pend := writeData_pend s r.data
@[simp] theorem commitOk_lat (r : Results) (s : State) : (commitOk r s).lat = s.lat := writeData_lat s r.data
@[simp] theorem commitOk_draws (r : Results) (s : State) : (commitOk r s).draws = s.draws := writeData_draws s r.data
@[simp] theorem commitOk_powerUps (r : Results) (s : State) : (commitOk r s).powerUps = s.powerUps := writeData_powerUps s r.data
@[simp] theorem commitOk_inbox (r : Results) (s : State) : (commitOk r s).inbox = s.inbox := writeData_inbox s r.data
@[simp] theorem commitOk_rdata (r : Results) (s : State) : (commitOk r s).rdata = s.rdata := writeData_rdata s r.data

/-! Acceptance. -/

@[simp] theorem accept_status (s : State) (w : Word) : (s.accept w).status = s.status.accepted := rfl
@[simp] theorem accept_opa (s : State) (w : Word) : (s.accept w).opa = s.opa := rfl
@[simp] theorem accept_opb (s : State) (w : Word) : (s.accept w).opb = s.opb := rfl
@[simp] theorem accept_encval (s : State) (w : Word) : (s.accept w).encval = s.encval := rfl
@[simp] theorem accept_hdrm (s : State) (w : Word) : (s.accept w).hdrm = s.hdrm := rfl
@[simp] theorem accept_hdrs (s : State) (w : Word) : (s.accept w).hdrs = s.hdrs := rfl
@[simp] theorem accept_bitm (s : State) (w : Word) : (s.accept w).bitm = s.bitm := rfl
@[simp] theorem accept_ones (s : State) (w : Word) : (s.accept w).ones = s.ones := rfl
@[simp] theorem accept_zeros (s : State) (w : Word) : (s.accept w).zeros = s.zeros := rfl
@[simp] theorem accept_gap (s : State) (w : Word) : (s.accept w).gap = s.gap := rfl
@[simp] theorem accept_len (s : State) (w : Word) : (s.accept w).len = s.len := rfl
@[simp] theorem accept_resl (s : State) (w : Word) : (s.accept w).resl = s.resl := rfl
@[simp] theorem accept_resh (s : State) (w : Word) : (s.accept w).resh = s.resh := rfl
@[simp] theorem accept_pwcust (s : State) (w : Word) : (s.accept w).pwcust = s.pwcust := rfl
@[simp] theorem accept_pwpar (s : State) (w : Word) : (s.accept w).pwpar = s.pwpar := rfl
@[simp] theorem accept_pwdata (s : State) (w : Word) : (s.accept w).pwdata = s.pwdata := rfl
@[simp] theorem accept_erridx (s : State) (w : Word) : (s.accept w).erridx = s.erridx := rfl
@[simp] theorem accept_errobs (s : State) (w : Word) : (s.accept w).errobs = s.errobs := rfl
@[simp] theorem accept_errexp (s : State) (w : Word) : (s.accept w).errexp = s.errexp := rfl
@[simp] theorem accept_buf (s : State) (w : Word) : (s.accept w).buf = s.buf := rfl
@[simp] theorem accept_pend (s : State) (w : Word) : (s.accept w).pend = w := rfl
@[simp] theorem accept_lat (s : State) (w : Word) : (s.accept w).lat = Config.latency s.draws := rfl
@[simp] theorem accept_draws (s : State) (w : Word) : (s.accept w).draws = s.draws + 1 := rfl
@[simp] theorem accept_powerUps (s : State) (w : Word) : (s.accept w).powerUps = s.powerUps := rfl
@[simp] theorem accept_inbox (s : State) (w : Word) : (s.accept w).inbox = s.inbox := rfl
@[simp] theorem accept_rdata (s : State) (w : Word) : (s.accept w).rdata = s.rdata := rfl

/-! An event leaves the inbox. -/

@[simp] theorem takeEvent_status (s : State) (q : List Event) : (s.takeEvent q).status = s.status := rfl
@[simp] theorem takeEvent_opa (s : State) (q : List Event) : (s.takeEvent q).opa = s.opa := rfl
@[simp] theorem takeEvent_opb (s : State) (q : List Event) : (s.takeEvent q).opb = s.opb := rfl
@[simp] theorem takeEvent_encval (s : State) (q : List Event) : (s.takeEvent q).encval = s.encval := rfl
@[simp] theorem takeEvent_hdrm (s : State) (q : List Event) : (s.takeEvent q).hdrm = s.hdrm := rfl
@[simp] theorem takeEvent_hdrs (s : State) (q : List Event) : (s.takeEvent q).hdrs = s.hdrs := rfl
@[simp] theorem takeEvent_bitm (s : State) (q : List Event) : (s.takeEvent q).bitm = s.bitm := rfl
@[simp] theorem takeEvent_ones (s : State) (q : List Event) : (s.takeEvent q).ones = s.ones := rfl
@[simp] theorem takeEvent_zeros (s : State) (q : List Event) : (s.takeEvent q).zeros = s.zeros := rfl
@[simp] theorem takeEvent_gap (s : State) (q : List Event) : (s.takeEvent q).gap = s.gap := rfl
@[simp] theorem takeEvent_len (s : State) (q : List Event) : (s.takeEvent q).len = s.len := rfl
@[simp] theorem takeEvent_resl (s : State) (q : List Event) : (s.takeEvent q).resl = s.resl := rfl
@[simp] theorem takeEvent_resh (s : State) (q : List Event) : (s.takeEvent q).resh = s.resh := rfl
@[simp] theorem takeEvent_pwcust (s : State) (q : List Event) : (s.takeEvent q).pwcust = s.pwcust := rfl
@[simp] theorem takeEvent_pwpar (s : State) (q : List Event) : (s.takeEvent q).pwpar = s.pwpar := rfl
@[simp] theorem takeEvent_pwdata (s : State) (q : List Event) : (s.takeEvent q).pwdata = s.pwdata := rfl
@[simp] theorem takeEvent_erridx (s : State) (q : List Event) : (s.takeEvent q).erridx = s.erridx := rfl
@[simp] theorem takeEvent_errobs (s : State) (q : List Event) : (s.takeEvent q).errobs = s.errobs := rfl
@[simp] theorem takeEvent_errexp (s : State) (q : List Event) : (s.takeEvent q).errexp = s.errexp := rfl
@[simp] theorem takeEvent_buf (s : State) (q : List Event) : (s.takeEvent q).buf = s.buf := rfl
@[simp] theorem takeEvent_pend (s : State) (q : List Event) : (s.takeEvent q).pend = s.pend := rfl
@[simp] theorem takeEvent_lat (s : State) (q : List Event) : (s.takeEvent q).lat = s.lat - 1 := rfl
@[simp] theorem takeEvent_draws (s : State) (q : List Event) : (s.takeEvent q).draws = s.draws := rfl
@[simp] theorem takeEvent_powerUps (s : State) (q : List Event) : (s.takeEvent q).powerUps = s.powerUps := rfl
@[simp] theorem takeEvent_inbox (s : State) (q : List Event) : (s.takeEvent q).inbox = q := rfl
@[simp] theorem takeEvent_rdata (s : State) (q : List Event) : (s.takeEvent q).rdata = s.rdata := rfl

/-! Reset. -/

@[simp] theorem applyReset_status (s : State) : (s.applyReset).status = State.reset.status := rfl
@[simp] theorem applyReset_opa (s : State) : (s.applyReset).opa = State.reset.opa := rfl
@[simp] theorem applyReset_opb (s : State) : (s.applyReset).opb = State.reset.opb := rfl
@[simp] theorem applyReset_encval (s : State) : (s.applyReset).encval = State.reset.encval := rfl
@[simp] theorem applyReset_hdrm (s : State) : (s.applyReset).hdrm = State.reset.hdrm := rfl
@[simp] theorem applyReset_hdrs (s : State) : (s.applyReset).hdrs = State.reset.hdrs := rfl
@[simp] theorem applyReset_bitm (s : State) : (s.applyReset).bitm = State.reset.bitm := rfl
@[simp] theorem applyReset_ones (s : State) : (s.applyReset).ones = State.reset.ones := rfl
@[simp] theorem applyReset_zeros (s : State) : (s.applyReset).zeros = State.reset.zeros := rfl
@[simp] theorem applyReset_gap (s : State) : (s.applyReset).gap = State.reset.gap := rfl
@[simp] theorem applyReset_len (s : State) : (s.applyReset).len = State.reset.len := rfl
@[simp] theorem applyReset_resl (s : State) : (s.applyReset).resl = State.reset.resl := rfl
@[simp] theorem applyReset_resh (s : State) : (s.applyReset).resh = State.reset.resh := rfl
@[simp] theorem applyReset_pwcust (s : State) : (s.applyReset).pwcust = State.reset.pwcust := rfl
@[simp] theorem applyReset_pwpar (s : State) : (s.applyReset).pwpar = State.reset.pwpar := rfl
@[simp] theorem applyReset_pwdata (s : State) : (s.applyReset).pwdata = State.reset.pwdata := rfl
@[simp] theorem applyReset_erridx (s : State) : (s.applyReset).erridx = State.reset.erridx := rfl
@[simp] theorem applyReset_errobs (s : State) : (s.applyReset).errobs = State.reset.errobs := rfl
@[simp] theorem applyReset_errexp (s : State) : (s.applyReset).errexp = State.reset.errexp := rfl
@[simp] theorem applyReset_buf (s : State) : (s.applyReset).buf = s.buf := rfl
@[simp] theorem applyReset_pend (s : State) : (s.applyReset).pend = State.reset.pend := rfl
@[simp] theorem applyReset_lat (s : State) : (s.applyReset).lat = State.reset.lat := rfl
@[simp] theorem applyReset_draws (s : State) : (s.applyReset).draws = s.draws := rfl
@[simp] theorem applyReset_powerUps (s : State) : (s.applyReset).powerUps = s.powerUps := rfl
@[simp] theorem applyReset_inbox (s : State) : (s.applyReset).inbox = s.inbox := rfl
@[simp] theorem applyReset_rdata (s : State) : (s.applyReset).rdata = s.rdata := rfl

/-! The flags. -/

@[simp] theorem accepted_busy (f : Status) : (f.accepted).busy = true := rfl
@[simp] theorem accepted_done (f : Status) : (f.accepted).done = false := rfl
@[simp] theorem accepted_ok (f : Status) : (f.accepted).ok = f.ok := rfl
@[simp] theorem accepted_rpt (f : Status) : (f.accepted).rpt = f.rpt := rfl
@[simp] theorem accepted_hzd (f : Status) : (f.accepted).hzd = f.hzd := rfl
@[simp] theorem accepted_err (f : Status) : (f.accepted).err = f.err := rfl
@[simp] theorem succeeded_busy (f : Status) (r : Bool) : (f.succeeded r).busy = false := rfl
@[simp] theorem succeeded_done (f : Status) (r : Bool) : (f.succeeded r).done = true := rfl
@[simp] theorem succeeded_ok (f : Status) (r : Bool) : (f.succeeded r).ok = true := rfl
@[simp] theorem succeeded_rpt (f : Status) (r : Bool) : (f.succeeded r).rpt = r := rfl
@[simp] theorem succeeded_hzd (f : Status) (r : Bool) : (f.succeeded r).hzd = f.hzd := rfl
@[simp] theorem succeeded_err (f : Status) (r : Bool) : (f.succeeded r).err = .eNone := rfl
@[simp] theorem failed_busy (f : Status) (c : ErrCode) : (f.failed c).busy = false := rfl
@[simp] theorem failed_done (f : Status) (c : ErrCode) : (f.failed c).done = true := rfl
@[simp] theorem failed_ok (f : Status) (c : ErrCode) : (f.failed c).ok = false := rfl
@[simp] theorem failed_rpt (f : Status) (c : ErrCode) : (f.failed c).rpt = false := rfl
@[simp] theorem failed_hzd (f : Status) (c : ErrCode) : (f.failed c).hzd = f.hzd := rfl
@[simp] theorem failed_err (f : Status) (c : ErrCode) : (f.failed c).err = c := rfl
@[simp] theorem hazard_busy (f : Status) : (f.hazard).busy = f.busy := rfl
@[simp] theorem hazard_done (f : Status) : (f.hazard).done = f.done := rfl
@[simp] theorem hazard_ok (f : Status) : (f.hazard).ok = f.ok := rfl
@[simp] theorem hazard_rpt (f : Status) : (f.hazard).rpt = f.rpt := rfl
@[simp] theorem hazard_hzd (f : Status) : (f.hazard).hzd = true := rfl
@[simp] theorem hazard_err (f : Status) : (f.hazard).err = f.err := rfl

end Sys2Proof.Machine
end

