-- ==== Sys2Proof/Laws/Memory.lean ====
section
/-! SUPPORT. The buffer's storage: read after write, and the canonical form kept by every operation. -/

namespace Sys2Proof.Machine

/-- Read after write: the written index holds the word, every other index is as before. -/
theorem lookup_store (m : Memory) (k j : Nat) (v : Word) :
    Memory.lookup (Memory.store m k v) j = if j = k then some v else Memory.lookup m j := by
  induction m with
  | nil => simp [Memory.store, Memory.lookup]
  | cons c m ih =>
    obtain ⟨i, u⟩ := c
    by_cases h1 : k < i
    · simp [Memory.store, Memory.lookup, h1]
    · by_cases h2 : k = i
      · subst h2; by_cases hj : j = k <;> simp [Memory.store, Memory.lookup, hj]
      · simp only [Memory.store, h1, h2, if_false, Memory.lookup, ih]
        by_cases hj : j = i
        · have : j ≠ k := by omega
          simp [hj]; omega
        · simp [hj]

/-- Read after a run of writes from index `k` on. -/
theorem lookup_storeAll (l : List Word) : ∀ (m : Memory) (k j : Nat),
    Memory.lookup (Memory.storeAll m k l) j =
      if h : k ≤ j ∧ j - k < l.length then some (l[j - k]'h.2) else Memory.lookup m j := by
  induction l with
  | nil => intro m k j; simp [Memory.storeAll]
  | cons v vs ih =>
    intro m k j
    rw [Memory.storeAll, ih, lookup_store]
    by_cases hjk : j = k
    · subst hjk; simp
    · by_cases hle : k ≤ j
      · obtain ⟨d, rfl⟩ : ∃ d, j = k + 1 + d := ⟨j - k - 1, by omega⟩
        have e1 : k + 1 + d - (k + 1) = d := by omega
        have e2 : k + 1 + d - k = d + 1 := by omega
        by_cases hd : d < vs.length
        · simp [e1, e2, hd]; omega
        · simp only [e1, e2]; simp [hd]; intro h; omega
      · have h1 : ¬ (k + 1 ≤ j) := by omega
        simp [hjk, hle, h1]

/-- Every index of a stored memory is the stored one or an old one. -/
theorem mem_store {m : Memory} {k : Nat} {v : Word} {c : Nat × Word} (h : c ∈ Memory.store m k v) :
    c = (k, v) ∨ c ∈ m := by
  induction m with
  | nil => simpa [Memory.store] using h
  | cons d m ih =>
    obtain ⟨i, u⟩ := d
    unfold Memory.store at h
    split_ifs at h with h1 h2
    · simpa using h
    · rcases List.mem_cons.1 h with h | h
      · exact .inl h
      · exact .inr (List.mem_cons_of_mem _ h)
    · rcases List.mem_cons.1 h with h | h
      · exact .inr (h ▸ List.mem_cons_self)
      · exact (ih h).imp_right (List.mem_cons_of_mem _)

/-- A store below `BUFCAP` keeps the canonical form. -/
theorem store_wf {m : Memory} (h : Memory.wf m) {k : Nat} (hk : k < Config.bufCap) (v : Word) :
    Memory.wf (Memory.store m k v) := by
  refine ⟨?_, fun c hc => ?_⟩
  · obtain ⟨h, -⟩ := h
    induction m with
    | nil => simp [Memory.store]
    | cons d m ih =>
      obtain ⟨i, u⟩ := d
      rw [List.pairwise_cons] at h
      unfold Memory.store
      split_ifs with h1 h2
      · refine List.pairwise_cons.2 ⟨fun c hc => ?_, List.pairwise_cons.2 h⟩
        rcases List.mem_cons.1 hc with rfl | hc
        · exact h1
        · exact lt_trans h1 (h.1 c hc)
      · subst h2; exact List.pairwise_cons.2 h
      · refine List.pairwise_cons.2 ⟨fun c hc => ?_, ih h.2⟩
        rcases mem_store hc with rfl | hc
        · show i < k; omega
        · exact h.1 c hc
  · rcases mem_store hc with rfl | hc
    · exact hk
    · exact h.2 c hc

/-- A run of stores below `BUFCAP` keeps the canonical form. -/
theorem storeAll_wf (l : List Word) : ∀ {m : Memory}, Memory.wf m → ∀ {k : Nat}, k + l.length ≤ Config.bufCap →
    Memory.wf (Memory.storeAll m k l) := by
  induction l with
  | nil => intro m h k _; exact h
  | cons v vs ih =>
    intro m h k hk
    simp only [List.length_cons] at hk
    exact ih (store_wf h (by omega) v) (by omega)

/-- The engine's view after a host write to one element. -/
theorem elem_store (s : State) (k j : Nat) (v : Word) :
    ({ s with buf := Memory.store s.buf k v } : State).elem j = if j = k then v else s.elem j := by
  unfold State.elem
  rw [lookup_store]
  split_ifs <;> rfl

/-- The engine's view after an encoder's writes. -/
theorem elem_writeData (s : State) (l : List Word) (j : Nat) :
    (s.writeData (some l)).elem j = if h : j < l.length then l[j] else s.elem j := by
  unfold State.elem
  rw [writeData_some_buf, lookup_storeAll, writeData_powerUps]
  by_cases h : j < l.length <;> simp [h]

@[simp] theorem elem_commitFail (f : Failure) (s : State) (j : Nat) : (commitFail f s).elem j = s.elem j := rfl

@[simp] theorem elem_commitOk (r : Results) (s : State) (j : Nat) :
    (commitOk r s).elem j = (s.writeData r.data).elem j := by
  unfold State.elem; simp

end Sys2Proof.Machine
end

