-- ==== Sys2Proof/Laws/Commit.lean ====
section
/-! SUPPORT. The commit: what a success and a failure leave, said once (60_exceptions.md R192, R193). -/

namespace Sys2Proof.Machine

@[simp] theorem unlessFail_none (o : CmdOutcome) : unlessFail none o = o := rfl
@[simp] theorem unlessFail_some (f : Failure) (o : CmdOutcome) : unlessFail (some f) o = .fail f := rfl
@[simp] theorem commit_ok (r : Results) (s : State) : commit (.ok r) s = commitOk r s := rfl
@[simp] theorem commit_fail (f : Failure) (s : State) : commit (.fail f) s = commitFail f s := rfl

/-- The 64-bit result read back from its two halves (10_state.md R35). -/
theorem res_split {v : Nat} (h : v < 2 ^ 64) :
    (BitVec.ofNat 32 (v / 2 ^ 32)).toNat * 2 ^ 32 + (BitVec.ofNat 32 v).toNat = v := by
  simp only [BitVec.toNat_ofNat]
  omega

/-- A committed success shows exactly the named results. -/
theorem commitOk_succeeds (r : Results) (s : State) (h : r.res < 2 ^ 64) (hc : r.pwcust < 2 ^ 32)
    (hp : r.pwpar < 2 ^ 32) (hd : r.pwdata < 2 ^ 32) :
    Succeeds s (commitOk r s) r.res r.rpt r.pwcust r.pwpar r.pwdata := by
  refine ⟨rfl, rfl, rfl, rfl, rfl, rfl, ?_, ?_, ?_, ?_, rfl, rfl, rfl⟩
  · exact res_split h
  all_goals simp only [commitOk_pwcust, commitOk_pwpar, commitOk_pwdata, BitVec.toNat_ofNat]; omega

/-- A committed failure shows its code and context. -/
theorem commitFail_failsWith (f : Failure) (s : State) (hi : f.idx < 2 ^ 32) (ho : f.obs < 2 ^ 32)
    (he : f.exp < 2 ^ 32) : FailsWith s (commitFail f s) f.code f.idx f.obs f.exp := by
  refine ⟨rfl, rfl, rfl, rfl, rfl, rfl, ?_, rfl, rfl, rfl, ?_, ?_, ?_⟩
  · simp [State.res]
  all_goals simp only [commitFail_erridx, commitFail_errobs, commitFail_errexp, BitVec.toNat_ofNat]; omega

/-- No commit changes an operand or parameter register, the latch or the outside world's fields. -/
theorem commit_operandsKept (o : CmdOutcome) (s : State) : OperandsKept s (commit o s) := by
  cases o <;> constructor <;> simp

/-- A failed command, or a success that writes no data, leaves `LEN` and `BUF` (60_exceptions.md R193, R196). -/
theorem commit_bufferKept {o : CmdOutcome} {s : State} (h : ∀ r, o = .ok r → r.data = none) :
    BufferKept s (commit o s) := by
  cases o with
  | ok r => have hr := h r rfl; constructor <;> simp [hr]
  | fail f => constructor <;> simp

end Sys2Proof.Machine
end

