-- ==== Sys2Proof/Laws/Encoder.lean ====
section
/-! SUPPORT. The encoder's element sequences: their lengths and their elements (42_pulse_distance_encode.md R132, R133). -/

namespace Sys2Proof.Machine

@[simp] theorem encodePd_length (v nbits : Nat) (ord : BitOrder) (bm os zs : Word) :
    (encodePd v nbits ord bm os zs).length = 2 * nbits := by
  simp [encodePd, encodePair, List.length_flatMap, List.map_const', Nat.mul_comm]

@[simp] theorem encodeFrame_length (v nbits : Nat) (ord : BitOrder) (hm hs bm os zs g : Word) :
    (encodeFrame v nbits ord hm hs bm os zs g).length = 2 * nbits + 4 := by
  simp [encodeFrame]

/-- The elements of a concatenation of pairs. -/
theorem flatMap_pair_getElem? (f g : Nat → Word) : ∀ (n i : Nat), i < n →
    ((List.range n).flatMap fun j => [f j, g j])[2 * i]? = some (f i) ∧
    ((List.range n).flatMap fun j => [f j, g j])[2 * i + 1]? = some (g i) := by
  intro n
  induction n with
  | zero => intro i h; omega
  | succ n ih =>
    intro i h
    have hl : ((List.range n).flatMap fun j => [f j, g j]).length = 2 * n := by
      simp [List.length_flatMap, List.map_const', Nat.mul_comm]
    rw [List.range_succ, List.flatMap_append]
    by_cases hi : i < n
    · rw [List.getElem?_append_left (by omega), List.getElem?_append_left (by omega)]
      exact ih i hi
    · obtain rfl : i = n := by omega
      rw [List.getElem?_append_right (by omega), List.getElem?_append_right (by omega), hl]
      simp

/-- Pair `i` of the encoder's output. -/
theorem encodePd_getElem? (v nbits : Nat) (ord : BitOrder) (bm os zs : Word) {i : Nat} (h : i < nbits) :
    (encodePd v nbits ord bm os zs)[2 * i]? = some bm ∧
    (encodePd v nbits ord bm os zs)[2 * i + 1]? = some (if encodeBit v nbits ord i = 1 then os else zs) := by
  exact flatMap_pair_getElem? (fun _ => bm) (fun i => if encodeBit v nbits ord i = 1 then os else zs) nbits i h

/-- The frame's pairs start at element 2 (42_pulse_distance_encode.md R133). -/
theorem encodeFrame_getElem? (v nbits : Nat) (ord : BitOrder) (hm hs bm os zs g : Word) {k : Nat} (h : k < 2 * nbits) :
    (encodeFrame v nbits ord hm hs bm os zs g)[2 + k]? = (encodePd v nbits ord bm os zs)[k]? := by
  rw [encodeFrame, List.append_assoc, List.getElem?_append_right (by simp),
    List.getElem?_append_left (by simp; omega)]
  simp

end Sys2Proof.Machine
end

