-- ==== Sys2Proof/Laws/HostPort.lean ====
section
/-! SUPPORT. The register map and the host's port: which indices are mapped, and one step of a run. -/

namespace Sys2Proof.Machine

/-- The buffer's window (20_memory.md R52). -/
theorem ofIndex_window {k : Nat} (h : k < Config.bufCap) : Loc.ofIndex (0x100 + k) = some (.buf k) := by
  unfold Loc.ofIndex Config.bufCap at *
  split <;> first | omega | skip
  rw [if_pos (by omega)]
  simp

/-- Every element the map names is in the buffer (20_memory.md R52). -/
theorem ofIndex_buf {i k : Nat} (h : Loc.ofIndex i = some (.buf k)) : k < Config.bufCap := by
  unfold Loc.ofIndex Config.bufCap at *
  split at h <;> try (simp at h; done)
  split_ifs at h
  injection h with h
  injection h with h
  omega

/-- The unmapped indices (20_memory.md R53). -/
theorem ofIndex_eq_none (i : Nat) :
    Loc.ofIndex i = none ↔ i = 0x00F ∨ (0x018 ≤ i ∧ i ≤ 0x0FF) ∨ 0x200 ≤ i := by
  unfold Loc.ofIndex Config.bufCap
  split
  all_goals try (simp; done)
  split_ifs with h
  · simp; omega
  · simp only [true_iff]
    by_contra hc
    have : i < 24 := by omega
    interval_cases i <;> first | omega | simp_all

/-- A write while busy does one thing (70_reset_and_hazards.md R226). -/
theorem writeLoc_busy {s : State} (h : s.status.busy = true) (l : Loc) (v : Word) :
    s.writeLoc l v = { s with status := s.status.hazard } := by
  simp [State.writeLoc, h]

/-- A write while idle (20_memory.md R55). -/
theorem writeLoc_idle {s : State} (h : s.status.busy = false) (l : Loc) (v : Word) :
    s.writeLoc l v = s.writeIdle v l := by
  simp [State.writeLoc, h]

/-- One step of a run that goes on. -/
theorem core_run_succ {k : Nat} {s t : State} (h : step s = .next t) :
    Sys2Proof.core.run (k + 1) s = Sys2Proof.core.run k t := by
  have general : ∀ (M : Host.Core) (a b : M.State), M.step a = .next b → M.run (k + 1) a = M.run k b :=
    fun M a b h => by simp only [Host.Core.run, h]
  exact general Sys2Proof.core s t h

end Sys2Proof.Machine
end

