-- ==== Sys2Proof/Laws/Window.lean ====
section
/-! SUPPORT. The window and the matchers as linear facts (40_match_primitives.md R94 to R96), for provers to feed to omega. -/

namespace Sys2Proof.Machine

/-- The window with this block's constants, over the integers. -/
theorem inWindow_iff (obs : Nat) (n : Int) :
    inWindow obs n = true ↔ 75 * n ≤ 100 * (obs : Int) ∧ 100 * (obs : Int) ≤ 125 * n + 100 := by
  unfold inWindow ticksLow100 ticksHigh100 Config.tol
  rw [Bool.and_eq_true, decide_eq_true_iff, decide_eq_true_iff]
  push_cast
  constructor <;> rintro ⟨h1, h2⟩ <;> constructor <;> linarith

/-- `match_mark` over the integers. -/
theorem matchMark_iff (obs nominal : Nat) :
    matchMark obs nominal = true ↔ 3 * ((nominal : Int) + 20) ≤ 4 * obs ∧ 4 * (obs : Int) ≤ 5 * (nominal + 20) + 4 := by
  rw [matchMark, inWindow_iff]; simp only [Config.offset]; omega

/-- `match_space` over the integers. -/
theorem matchSpace_iff (obs nominal : Nat) :
    matchSpace obs nominal = true ↔ 3 * ((nominal : Int) - 20) ≤ 4 * obs ∧ 4 * (obs : Int) ≤ 5 * (nominal - 20) + 4 := by
  rw [matchSpace, inWindow_iff]; simp only [Config.offset]; omega

/-- The operand checks pass exactly on a legal bit count (30_encoding.md R73). -/
theorem nbitsCheck_eq_none (ord : BitOrder) (nbits : Nat) :
    nbitsCheck ord nbits = none ↔ nbits ≤ 32 ∧ (ord = .lsb → nbits % 8 = 0) := by
  unfold nbitsCheck Config.valueWidth
  split_ifs with h1 h2
  · simp only [false_iff]; omega
  · simp only [false_iff]; tauto
  · simp only [true_iff]; exact ⟨by omega, fun h => by tauto⟩

theorem lenCheck_eq_none (s : State) : lenCheck s = none ↔ s.len.toNat ≤ 256 := by
  unfold lenCheck Config.bufCap
  split_ifs with h
  · simp only [false_iff]; omega
  · simp only [true_iff]; omega

theorem rangeCheck_eq_none (s : State) (nbits : Nat) : rangeCheck s nbits = none ↔ s.encval.toNat < 2 ^ nbits := by
  unfold rangeCheck
  split_ifs with h
  · simp only [false_iff]; omega
  · simp only [true_iff]; omega

end Sys2Proof.Machine
end

