-- ==== Sys2Proof/Laws/PulseDistance.lean ====
section
/-! SUPPORT. The pulse-distance decoder's loop: what it reads, when it succeeds, and where it stops
(41_pulse_distance_decode.md R112). -/

namespace Sys2Proof.Machine

/-- The accumulator after the pairs `i, i + 1, ...` with the bits `b` (41_pulse_distance_decode.md R113). -/
def accumulateAll (ord : BitOrder) (b : Nat → Nat) : (count i acc : Nat) → Nat
  | 0, _, acc => acc
  | count + 1, i, acc => accumulateAll ord b count (i + 1) (accumulate ord i acc (b i))

/-- The loop reads no element but those of its own pairs. -/
theorem decodePairs_congr {e e' : Nat → Nat} (base bm os zs : Nat) (ord : BitOrder) (count : Nat) : ∀ i acc,
    (∀ k, base + 2 * i ≤ k → k < base + 2 * (i + count) → e k = e' k) →
    decodePairs e base bm os zs ord count i acc = decodePairs e' base bm os zs ord count i acc := by
  induction count with
  | zero => intro i acc _; rfl
  | succ n ih =>
    intro i acc h
    simp only [decodePairs]
    rw [h (base + 2 * i) (by omega) (by omega), h (base + 2 * i + 1) (by omega) (by omega)]
    split_ifs
    · cases spaceBit (e' (base + 2 * i + 1)) os zs with
      | none => rfl
      | some b => exact ih _ _ fun k h1 h2 => h k (by omega) (by omega)
    · rfl

/-- When every pair is good the loop returns the accumulated bits. -/
theorem decodePairs_ok {e : Nat → Nat} (base bm os zs : Nat) (ord : BitOrder) (b : Nat → Nat) (count : Nat) : ∀ i acc,
    (∀ r, i ≤ r → r < i + count → matchMark (e (base + 2 * r)) bm = true ∧
      spaceBit (e (base + 2 * r + 1)) os zs = some (b r)) →
    decodePairs e base bm os zs ord count i acc = .ok (accumulateAll ord b count i acc) := by
  induction count with
  | zero => intro i acc _; rfl
  | succ n ih =>
    intro i acc h
    obtain ⟨hm, hs⟩ := h i (le_refl i) (by omega)
    simp only [decodePairs, hm, hs, if_true, accumulateAll]
    exact ih _ _ fun r h1 h2 => h r (by omega) (by omega)

/-- The first bad pair ends the decode: its mark is judged before its space. -/
theorem decodePairs_bad {e : Nat → Nat} (base bm os zs : Nat) (ord : BitOrder) (count : Nat) : ∀ i acc r,
    i ≤ r → r < i + count →
    (∀ j, i ≤ j → j < r → matchMark (e (base + 2 * j)) bm = true ∧ spaceBit (e (base + 2 * j + 1)) os zs ≠ none) →
    (matchMark (e (base + 2 * r)) bm = false →
      decodePairs e base bm os zs ord count i acc = .error ⟨.ePdMark, base + 2 * r, e (base + 2 * r), bm⟩) ∧
    (matchMark (e (base + 2 * r)) bm = true → spaceBit (e (base + 2 * r + 1)) os zs = none →
      decodePairs e base bm os zs ord count i acc = .error ⟨.ePdSpace, base + 2 * r + 1, e (base + 2 * r + 1), os⟩) := by
  induction count with
  | zero => intro i acc r h1 h2; omega
  | succ n ih =>
    intro i acc r h1 h2 h
    by_cases hir : i = r
    · subst hir
      refine ⟨fun hm => ?_, fun hm hs => ?_⟩
      · simp [decodePairs, hm]
      · simp [decodePairs, hm, hs]
    · obtain ⟨hm, hs⟩ := h i (le_refl i) (by omega)
      obtain ⟨b, hb⟩ := Option.ne_none_iff_exists'.1 hs
      simp only [decodePairs, hm, hb, if_true]
      exact ih (i + 1) _ r (by omega) (by omega) fun j h1 h2 => h j (by omega) h2

/-- A bit is 0 or 1. -/
theorem spaceBit_le_one {s os zs b : Nat} (h : spaceBit s os zs = some b) : b ≤ 1 := by
  unfold spaceBit at h
  split_ifs at h <;> (simp at h; omega)

end Sys2Proof.Machine
end

