-- ==== Sys2Proof/Laws/Step.lean ====
section
/-! SUPPORT. What a step can do, said once: every command commits one outcome, and a step is a commit, an event or nothing. -/

namespace Sys2Proof.Machine

/-- The outcome a command commits, by instruction. -/
def outcome (i : Instr) (s : State) : CmdOutcome :=
  match i with
  | .tlo => tloOutcome s
  | .thi => thiOutcome s
  | .mmark => mmarkOutcome s
  | .mspace => mspaceOutcome s
  | .decpd ord nbits => decpdOutcome ord nbits s
  | .encpd ord nbits => encpdOutcome ord nbits s
  | .encfr ord nbits => encfrOutcome ord nbits s
  | .decpw => decpwOutcome s
  | .decnec => decnecOutcome s

/-- Executing a command is committing its outcome. -/
theorem exec_eq (i : Instr) (s : State) : exec i s = .next (commit (outcome i s) s) := by
  cases i <;> rfl

/-- A command that succeeds with no data: its result, and what it keeps. -/
theorem exec_succeeds {i : Instr} {s : State} {r : Results} (h : outcome i s = .ok r) (hdata : r.data = none)
    (hres : r.res < 2 ^ 64) (hc : r.pwcust < 2 ^ 32) (hp : r.pwpar < 2 ^ 32) (hd : r.pwdata < 2 ^ 32) :
    ∃ t, exec i s = .next t ∧ Succeeds s t r.res r.rpt r.pwcust r.pwpar r.pwdata ∧ OperandsKept s t ∧
      BufferKept s t := by
  refine ⟨commit (outcome i s) s, exec_eq i s, ?_, commit_operandsKept _ s, ?_⟩
  · rw [h]; exact commitOk_succeeds r s hres hc hp hd
  · rw [h]; exact commit_bufferKept fun r' h' => by cases h'; exact hdata

/-- A command that fails: its code and context, and what it keeps. -/
theorem exec_fails {i : Instr} {s : State} {f : Failure} (h : outcome i s = .fail f) (hi : f.idx < 2 ^ 32)
    (ho : f.obs < 2 ^ 32) (he : f.exp < 2 ^ 32) :
    ∃ t, exec i s = .next t ∧ FailsWith s t f.code f.idx f.obs f.exp ∧ OperandsKept s t ∧ BufferKept s t := by
  refine ⟨commit (outcome i s) s, exec_eq i s, ?_, commit_operandsKept _ s, ?_⟩
  · rw [h]; exact commitFail_failsWith f s hi ho he
  · rw [h]; exact commit_bufferKept fun r' h' => by cases h'

/-- Completion commits exactly one outcome (60_exceptions.md R190). -/
theorem complete_eq (s : State) : ∃ o, complete s = .next (commit o s) ∧
    ((∃ i, decode s.pend = .legal i ∧ o = outcome i s) ∨
      (∃ w, decode s.pend = .illegal w ∧ o = .fail ⟨.eBadcmd, 0, s.pend.toNat, 0⟩)) := by
  unfold complete
  cases h : decode s.pend with
  | legal i => exact ⟨_, exec_eq i s, .inl ⟨i, rfl, rfl⟩⟩
  | illegal w => exact ⟨_, rfl, .inr ⟨w, rfl, rfl⟩⟩

/-- A guarded outcome succeeds only when its check passes. -/
theorem unlessFail_eq_ok {c : Option Failure} {o : CmdOutcome} {r : Results} (h : unlessFail c o = .ok r) :
    c = none ∧ o = .ok r := by
  cases c with
  | none => exact ⟨rfl, h⟩
  | some f => cases h

/-- A step is the commit of the pending command, one event taken from the inbox, or nothing. -/
theorem step_cases (s : State) :
    (s.commitDue = true ∧ step s = complete s) ∨
    (s.commitDue = false ∧ s.inbox = [] ∧ s.status.busy = false ∧ step s = .next s) ∨
    (∃ e rest, s.commitDue = false ∧ s.inbox = e :: rest ∧ step s = perform e (s.takeEvent rest)) := by
  unfold step advance
  cases hd : s.commitDue with
  | true => exact .inl ⟨rfl, rfl⟩
  | false =>
    cases hi : s.inbox with
    | nil =>
      refine .inr (.inl ⟨rfl, rfl, ?_, rfl⟩)
      simpa [State.commitDue, hi] using hd
    | cons e rest => exact .inr (.inr ⟨e, rest, rfl, rfl, rfl⟩)

end Sys2Proof.Machine
end

