-- ==== Sys2Proof/Laws/Outcomes.lean ====
section
/-! SUPPORT. What the outcome of a command can be, said once for all nine: its codes, its widths, and who writes the buffer. -/

namespace Sys2Proof.Machine

/-- A guarded outcome fails by its check, or its check passes and the rest fails. -/
theorem unlessFail_eq_fail {c : Option Failure} {o : CmdOutcome} {f : Failure} (h : unlessFail c o = .fail f) :
    c = some f ∨ (c = none ∧ o = .fail f) := by
  cases c with
  | none => exact .inr ⟨rfl, h⟩
  | some g => cases h; exact .inl rfl

/-- A pair decoder's failure names a code. -/
theorem decodePairs_error_code (e : Nat → Nat) (base bm os zs : Nat) (ord : BitOrder) (count : Nat) : ∀ i acc f,
    decodePairs e base bm os zs ord count i acc = .error f → f.code ≠ .eNone := by
  induction count with
  | zero => intro i acc f h; simp [decodePairs] at h
  | succ n ih =>
    intro i acc f h
    simp only [decodePairs] at h
    split_ifs at h
    · split at h
      · exact ih _ _ _ h
      · cases h; simp
    · cases h; simp

theorem nbitsCheck_code {o : BitOrder} {n : Nat} {f : Failure} (h : nbitsCheck o n = some f) : f.code = .eNbits := by
  unfold nbitsCheck at h; split_ifs at h <;> cases h <;> rfl

theorem lenCheck_code {s : State} {f : Failure} (h : lenCheck s = some f) : f.code = .eBadlen := by
  unfold lenCheck at h; split_ifs at h; cases h; rfl

theorem rangeCheck_code {s : State} {n : Nat} {f : Failure} (h : rangeCheck s n = some f) : f.code = .eEncRange := by
  unfold rangeCheck at h; split_ifs at h; cases h; rfl

theorem pwCountCheck_code {n : Nat} {f : Failure} (h : pwCountCheck n = some f) : f.code ≠ .eNone := by
  unfold pwCountCheck at h; split_ifs at h <;> cases h <;> simp

theorem pwClassCheck_code {e : Nat → Nat} {b : Nat} {f : Failure} (h : pwClassCheck e b = some f) :
    f.code = .ePwUnclass := by
  unfold pwClassCheck at h
  obtain ⟨q, -, rfl⟩ := Option.map_eq_some_iff.1 h
  rfl

theorem necLengthCheck_code {n : Nat} {f : Failure} (h : necLengthCheck n = some f) : f.code = .eNecLen := by
  unfold necLengthCheck at h; split_ifs at h; cases h; rfl

theorem markCheck_code {e : Nat → Nat} {c : ErrCode} {k n : Nat} {f : Failure} (h : markCheck e c k n = some f) :
    f.code = c := by
  unfold markCheck at h; split_ifs at h; cases h; rfl

theorem spaceCheck_code {e : Nat → Nat} {c : ErrCode} {k n : Nat} {f : Failure} (h : spaceCheck e c k n = some f) :
    f.code = c := by
  unfold spaceCheck at h; split_ifs at h; cases h; rfl

/-- A failure always names a code (60_exceptions.md R191). -/
theorem outcome_fail_code {i : Instr} {s : State} {f : Failure} (h : outcome i s = .fail f) : f.code ≠ .eNone := by
  cases i with
  | tlo => cases h
  | thi => cases h
  | mmark => cases h
  | mspace => cases h
  | decpd o n =>
    rcases unlessFail_eq_fail h with h | ⟨-, h⟩
    · rw [nbitsCheck_code h]; decide
    rcases unlessFail_eq_fail h with h | ⟨-, h⟩
    · rw [lenCheck_code h]; decide
    unfold decodePd at h
    split_ifs at h
    · cases h; simp
    · generalize hx : decodePairs _ _ _ _ _ _ _ _ _ = x at h
      cases x with
      | ok v => cases h
      | error g => cases h; exact decodePairs_error_code _ _ _ _ _ _ _ _ _ _ hx
  | encpd o n =>
    rcases unlessFail_eq_fail h with h | ⟨-, h⟩
    · rw [nbitsCheck_code h]; decide
    rcases unlessFail_eq_fail h with h | ⟨-, h⟩
    · rw [rangeCheck_code h]; decide
    cases h
  | encfr o n =>
    rcases unlessFail_eq_fail h with h | ⟨-, h⟩
    · rw [nbitsCheck_code h]; decide
    rcases unlessFail_eq_fail h with h | ⟨-, h⟩
    · rw [rangeCheck_code h]; decide
    cases h
  | decpw =>
    rcases unlessFail_eq_fail h with h | ⟨-, h⟩
    · rw [lenCheck_code h]; decide
    rcases unlessFail_eq_fail h with h | ⟨-, h⟩
    · exact pwCountCheck_code h
    rcases unlessFail_eq_fail h with h | ⟨-, h⟩
    · rw [pwClassCheck_code h]; decide
    cases h
  | decnec =>
    unfold outcome decnecOutcome decodeNec at h
    rcases unlessFail_eq_fail h with h | ⟨-, h⟩
    · rw [lenCheck_code h]; decide
    rcases unlessFail_eq_fail h with h | ⟨-, h⟩
    · rw [necLengthCheck_code h]; decide
    rcases unlessFail_eq_fail h with h | ⟨-, h⟩
    · rw [markCheck_code h]; decide
    rcases unlessFail_eq_fail h with h | ⟨-, h⟩
    · rw [spaceCheck_code h]; decide
    generalize hx : necData s.dur s.len.toNat = x at h
    unfold necStop at h
    cases x with
    | error g =>
      cases h
      unfold necData at hx; split_ifs at hx
      exact decodePairs_error_code _ _ _ _ _ _ _ _ _ _ hx
    | ok v =>
      rcases unlessFail_eq_fail h with h | ⟨-, h⟩
      · rw [markCheck_code h]; decide
      cases h

/-- A field of `count` bits is below `2^count` (43_pulse_width_decode.md R156). -/
theorem pwField_lt (e : Nat → Nat) (b f c : Nat) : pwField e b f c < 2 ^ c := by
  unfold pwField
  induction c with
  | zero => simp
  | succ n ih =>
    rw [List.range_succ, List.map_append, List.sum_append, List.map_singleton, List.sum_singleton]
    have hbit : pwBit (e (pwSpaceIndex b (f + n))) ≤ 1 := by unfold pwBit; split_ifs <;> simp
    have := Nat.mul_le_mul_right (2 ^ n) hbit
    rw [pow_succ]; omega

/-- A decoded value is named, and nothing else. -/
theorem valueOutcome_eq_ok {x : Except Failure Nat} {r : Results} (h : valueOutcome x = .ok r) :
    ∃ v, x = .ok v ∧ r = { res := v } := by
  cases x with
  | error f => cases h
  | ok v => cases h; exact ⟨v, rfl, rfl⟩

/-- What a success can name: `RPT` only with no value, the pulse-width fields in their widths, at most `BUFCAP` elements. -/
theorem outcome_ok_shape {i : Instr} {s : State} {r : Results} (h : outcome i s = .ok r) :
    (r.rpt = true → r.res = 0) ∧ r.pwcust < 2 ^ 16 ∧ r.pwpar < 2 ^ 4 ∧ r.pwdata < 2 ^ 4 ∧
      ∀ d, r.data = some d → d.length ≤ Config.bufCap := by
  cases i with
  | tlo => cases h; simp
  | thi => cases h; simp
  | mmark => cases h; simp
  | mspace => cases h; simp
  | decpd o n =>
    obtain ⟨v, -, rfl⟩ := valueOutcome_eq_ok (unlessFail_eq_ok (unlessFail_eq_ok h).2).2
    simp
  | encpd o n =>
    have h1 := (nbitsCheck_eq_none o n).1 (unlessFail_eq_ok h).1
    cases (unlessFail_eq_ok (unlessFail_eq_ok h).2).2
    simp [Config.bufCap]; omega
  | encfr o n =>
    have h1 := (nbitsCheck_eq_none o n).1 (unlessFail_eq_ok h).1
    cases (unlessFail_eq_ok (unlessFail_eq_ok h).2).2
    simp [Config.bufCap]; omega
  | decpw =>
    cases (unlessFail_eq_ok (unlessFail_eq_ok (unlessFail_eq_ok h).2).2).2
    exact ⟨by simp, pwField_lt _ _ _ _, pwField_lt _ _ _ _, pwField_lt _ _ _ _, by simp⟩
  | decnec =>
    have h := (unlessFail_eq_ok (unlessFail_eq_ok (unlessFail_eq_ok (unlessFail_eq_ok h).2).2).2).2
    unfold necStop at h
    split at h
    · cases h
    · rename_i v hv
      cases (unlessFail_eq_ok h).2
      refine ⟨fun hl => ?_, by simp, by simp, by simp, by simp⟩
      unfold necData at hv
      rw [of_decide_eq_true hl] at hv
      simpa [Config.necRptLen, Config.necFullLen, Config.necBits] using hv.symm

/-- Only the two encoders name data for the buffer (20_memory.md R58). -/
theorem outcome_data_none {i : Instr} {s : State} {r : Results} (hi : ∀ o n, i ≠ .encpd o n ∧ i ≠ .encfr o n)
    (h : outcome i s = .ok r) : r.data = none := by
  cases i with
  | encpd o n => exact absurd rfl (hi o n).1
  | encfr o n => exact absurd rfl (hi o n).2
  | tlo => cases h; rfl
  | thi => cases h; rfl
  | mmark => cases h; rfl
  | mspace => cases h; rfl
  | decpd o n =>
    obtain ⟨v, -, rfl⟩ := valueOutcome_eq_ok (unlessFail_eq_ok (unlessFail_eq_ok h).2).2
    rfl
  | decpw => cases (unlessFail_eq_ok (unlessFail_eq_ok (unlessFail_eq_ok h).2).2).2; rfl
  | decnec =>
    have h := (unlessFail_eq_ok (unlessFail_eq_ok (unlessFail_eq_ok (unlessFail_eq_ok h).2).2).2).2
    unfold necStop at h
    split at h
    · cases h
    · cases (unlessFail_eq_ok h).2; rfl

end Sys2Proof.Machine
end

