-- ==== Sys2Proof/Laws/PerInstr.lean ====
section
/-! SUPPORT. Per-instruction families (LAWS.json): what holds of every instruction as syntax. -/

namespace Sys2Proof.Laws.TableRow

open Sys2Proof

/-- The row's mask in the opcode table (30_encoding.md R79). -/
def mask : Instr → Word
  | .decpd _ _ | .encpd _ _ | .encfr _ _ => 0xFFFFC0EF#32
  | .tlo | .thi | .mmark | .mspace | .decpw | .decnec => 0xFFFFFFFF#32

/-- The row's match in the opcode table (30_encoding.md R79). -/
def opcode : Instr → Word
  | .tlo => 1#32
  | .thi => 2#32
  | .mmark => 3#32
  | .mspace => 4#32
  | .decpd _ _ => 5#32
  | .encpd _ _ => 6#32
  | .encfr _ _ => 7#32
  | .decpw => 8#32
  | .decnec => 9#32

/-- The instruction's word matches its own row of the opcode table. -/
def Statement (i : Instr) : Prop := WellFormed i → encode i &&& mask i = opcode i

/-- A word with two fields above a 4-bit opcode, masked to the opcode. -/
theorem fields_masked {op : Nat} (hop : op < 16) (ord : BitOrder) (nbits : Nat) (h : nbits < 64) :
    commandWord op ord.toField nbits &&& 0xFFFFC0EF#32 = BitVec.ofNat 32 op := by
  have ho : ord.toField < 2 := by cases ord <;> decide
  have key : ∀ a < 16, ∀ b < 2, ∀ c < 64, commandWord a b c &&& 0xFFFFC0EF#32 = BitVec.ofNat 32 a := by decide +kernel
  exact key op hop _ ho nbits h

theorem tlo : Statement .tlo := fun _ => by decide
theorem thi : Statement .thi := fun _ => by decide
theorem mmark : Statement .mmark := fun _ => by decide
theorem mspace : Statement .mspace := fun _ => by decide
theorem decpd (ord : BitOrder) (nbits : Nat) : Statement (.decpd ord nbits) := fun h =>
  fields_masked (by decide) ord nbits (by simpa [WellFormed, Instr.wellFormed, nbitsFits] using h)
theorem encpd (ord : BitOrder) (nbits : Nat) : Statement (.encpd ord nbits) := fun h =>
  fields_masked (by decide) ord nbits (by simpa [WellFormed, Instr.wellFormed, nbitsFits] using h)
theorem encfr (ord : BitOrder) (nbits : Nat) : Statement (.encfr ord nbits) := fun h =>
  fields_masked (by decide) ord nbits (by simpa [WellFormed, Instr.wellFormed, nbitsFits] using h)
theorem decpw : Statement .decpw := fun _ => by decide
theorem decnec : Statement .decnec := fun _ => by decide

end Sys2Proof.Laws.TableRow
end

