-- ==== Sys2Proof/Tests/Slice0.lean ====
section
/-! SUPPORT. Own tests: expected values are the vectors V<n> of 95_test_vectors.md and the rules; then a witness for the
hypotheses of every statement that has any. -/

namespace Sys2Proof.Tests

open Sys2Proof Sys2Proof.Machine

set_option Elab.async false

/-- The state a command leaves, or `s` if it stopped. -/
def after (i : Instr) (s : State) : State :=
  match exec i s with
  | .next t => t
  | _ => s

/-- The state an event leaves, or `s` if it stopped. -/
def event (e : Event) (s : State) : State :=
  match perform e s with
  | .next t => t
  | _ => s

/-- The state a step leaves, or `s` if it stopped. -/
def stepped (s : State) : State :=
  match step s with
  | .next t => t
  | _ => s

/-- The reset state with a buffer and its length loaded (95_test_vectors.md, "Load"). -/
def loaded (l : List Nat) : State :=
  { State.reset with
    buf := Memory.storeAll [] 0 (l.map (BitVec.ofNat 32)), len := BitVec.ofNat 32 l.length }

/-- The first words of the buffer. -/
def front (s : State) (n : Nat) : List Nat := (List.range n).map s.dur

/-- `RES`, the three pulse-width fields and the context registers. -/
def results (s : State) : Nat × List Nat × List Nat :=
  (s.res, [s.pwcust.toNat, s.pwpar.toNat, s.pwdata.toNat], [s.erridx.toNat, s.errobs.toNat, s.errexp.toNat])

/-- A pending command: `BUSY = 1` with `w` in `PEND`. -/
def pending (w : Word) (lat : Nat) (inbox : List Event) : State :=
  { State.reset with status := { State.reset.status with busy := true }, pend := w, lat := lat, inbox := inbox }

/-! ## WellFormed: an ill-formed term for each check (R71) -/

theorem test_decpd_nbits_too_wide : ¬ WellFormed (.decpd .msb 64) := by decide
theorem test_encpd_nbits_too_wide : ¬ WellFormed (.encpd .lsb 64) := by decide
theorem test_encfr_nbits_too_wide : ¬ WellFormed (.encfr .lsb 100) := by decide
theorem test_nbits_63_fits : WellFormed (.decpd .lsb 63) := by decide

/-! ## Decoding: words written out by R71 (op bits 3:0, ord bit 4, nbits bits 13:8) -/

theorem test_decode_tlo : decode 0b00000000000000000000000000000001#32 = .legal .tlo := by decide
theorem test_decode_thi : decode 0b00000000000000000000000000000010#32 = .legal .thi := by decide
theorem test_decode_mmark : decode 0b00000000000000000000000000000011#32 = .legal .mmark := by decide
theorem test_decode_mspace : decode 0b00000000000000000000000000000100#32 = .legal .mspace := by decide
theorem test_decode_decpd : decode 0b00000000000000000011111100010101#32 = .legal (.decpd .lsb 63) := by decide
theorem test_decode_encpd : decode 0b00000000000000000000001100000110#32 = .legal (.encpd .msb 3) := by decide
theorem test_decode_encfr : decode 0b00000000000000000010000000010111#32 = .legal (.encfr .lsb 32) := by decide
theorem test_decode_decpw : decode 0b00000000000000000000000000001000#32 = .legal .decpw := by decide
theorem test_decode_decnec : decode 0b00000000000000000000000000001001#32 = .legal .decnec := by decide
theorem test_encode_encfr : encode (.encfr .lsb 32) = 0x00002017#32 := by decide
/-- V60, V61. -/
theorem test_illegal_words :
    decode 0x00000000#32 = .illegal .reservedOpcode ∧ decode 0x0000000A#32 = .illegal .reservedOpcode ∧
    decode 0x0000000F#32 = .illegal .reservedOpcode ∧ decode 0x00000021#32 = .illegal .reservedBitSet ∧
    decode 0x00004005#32 = .illegal .reservedBitSet ∧ decode 0x80000009#32 = .illegal .reservedBitSet ∧
    decode 0x00000011#32 = .illegal .unusedFieldSet ∧ decode 0x00000108#32 = .illegal .unusedFieldSet ∧
    decode 0x00000109#32 = .illegal .unusedFieldSet ∧ decode 0x00000019#32 = .illegal .unusedFieldSet ∧
    decode 0x00002835#32 = .illegal .reservedBitSet := by decide

/-! ## Commands, at most two tests each -/

/-- V10, top of the range. -/
theorem test_tlo_top : (after .tlo { State.reset with opb := 0xFFFFFFFF#32 }).resh = 0x4A#32 ∧
    (after .tlo { State.reset with opb := 0xFFFFFFFF#32 }).resl = 0xFFFFFFB5#32 := by decide +kernel
/-- V11, top of the range. -/
theorem test_thi_top : (after .thi { State.reset with opb := 0xFFFFFFFF#32 }).resh = 0x7C#32 ∧
    (after .thi { State.reset with opb := 0xFFFFFFFF#32 }).resl = 0xFFFFFFE7#32 := by decide +kernel
/-- V12, V13, V14: pairs (OPA, OPB) that match as a mark, then pairs that do not. -/
theorem test_mmark_ends :
    (∀ p ∈ [(435, 560), (726, 560), (408, 523), (679, 523), (15, 0), (26, 0), (0xFFFFFFFF, 0xFFFFFFFF)],
      (after .mmark { State.reset with opa := BitVec.ofNat 32 p.1, opb := BitVec.ofNat 32 p.2 }).resl = 1) ∧
    (∀ p ∈ [(434, 560), (727, 560), (407, 523), (680, 523), (14, 0), (27, 0), (0xFFFFFFFF, 3435973800)],
      (after .mmark { State.reset with opa := BitVec.ofNat 32 p.1, opb := BitVec.ofNat 32 p.2 }).resl = 0) := by
  decide +kernel
/-- V15, V16. -/
theorem test_mspace_ends :
    (∀ p ∈ [(405, 560), (676, 560), (1673, 2250), (2788, 2250), (0, 20), (1, 20), (1, 21), (2, 21)],
      (after .mspace { State.reset with opa := BitVec.ofNat 32 p.1, opb := BitVec.ofNat 32 p.2 }).resl = 1) ∧
    (∀ p ∈ [(404, 560), (677, 560), (1672, 2250), (2, 20), (0, 21), (0, 19), (0, 0), (0xFFFFFFFF, 0)],
      (after .mspace { State.reset with opa := BitVec.ofNat 32 p.1, opb := BitVec.ofNat 32 p.2 }).resl = 0) := by
  decide +kernel

/-- V24. -/
def v24 : List Nat := [600, 1500, 520, 610, 435, 2076, 726, 405]
theorem test_decpd_window_ends : results (after (.decpd .msb 4) (loaded v24)) = (10, [0, 0, 0], [0, 0, 0]) ∧
    results (after (.decpd .msb 4) (loaded (v24.set 4 434))) = (0, [0, 0, 0], [4, 434, 560]) ∧
    (after (.decpd .msb 4) (loaded (v24.set 5 2077))).status.err = .ePdSpace := by decide +kernel
/-- V26: the spaces of V41 read in both orders. -/
def v41 : List Nat :=
  [560, 1680, 560, 560, 560, 560, 560, 560, 560, 560, 560, 560, 560, 560, 560, 560,
   560, 560, 560, 560, 560, 1680, 560, 1680, 560, 560, 560, 1680, 560, 560, 560, 560]
theorem test_decpd_orders : (after (.decpd .lsb 16) (loaded v41)).resl = 0x012C#32 ∧
    (after (.decpd .msb 16) (loaded v41)).resl = 0x8034#32 ∧
    (after (.decpd .lsb 8) (loaded v41)).resl = 0x01#32 := by decide +kernel
/-- V41. -/
theorem test_encpd_grouping : front (after (.encpd .lsb 16) { State.reset with encval := 0x012C#32 }) 32 = v41 ∧
    (after (.encpd .lsb 16) { State.reset with encval := 0x012C#32 }).len = 32#32 := by decide +kernel
/-- V43. -/
theorem test_encpd_misuse :
    results (after (.encpd .msb 3) { State.reset with encval := 8#32 }) = (0, [0, 0, 0], [0, 8, 3]) ∧
    (after (.encpd .lsb 12) { State.reset with encval := 5#32 }).status.err = .eNbits := by decide +kernel
/-- V44. -/
theorem test_encfr_parameters :
    front (after (.encfr .msb 4) { State.reset with
      hdrm := 2400#32, hdrs := 600#32, bitm := 600#32, ones := 1200#32, zeros := 600#32, gap := 25000#32,
      encval := 0xB#32 }) 12 = [2400, 600, 600, 1200, 600, 600, 600, 1200, 600, 1200, 600, 25000] := by decide +kernel
/-- V5. -/
def v5 : List Nat :=
  [8960, 4480, 560, 560, 560, 560, 560, 560, 560, 560, 560, 1680, 560, 560, 560, 1680, 560, 560,
   560, 1680, 560, 1680, 560, 1680, 560, 1680, 560, 560, 560, 1680, 560, 560, 560, 1680] ++
  [560, 1680, 560, 1680, 560, 1680, 560, 1680, 560, 1680, 560, 1680, 560, 560, 560, 560,
   560, 560, 560, 560, 560, 560, 560, 560, 560, 560, 560, 560, 560, 1680, 560, 1680, 560, 40000]
theorem test_encfr_v5 : (after (.encfr .lsb 32) { State.reset with encval := 0x50AF3FC0#32 }).buf = (loaded v5).buf := by
  decide +kernel
/-- V30. -/
def v30 : List Nat :=
  [3400, 1700, 425, 425, 425, 1275, 425, 425, 425, 425, 425, 425, 425, 425, 425, 425, 425, 425, 425, 425, 425, 425,
   425, 425, 425, 425, 425, 425] ++
  [425, 1275, 425, 425, 425, 425, 425, 1275, 425, 425, 425, 1275, 425, 425, 425, 425, 425, 1275, 425, 425,
   425, 1275, 425, 40000]
/-- V30, V32. -/
theorem test_decpw_v30 : results (after .decpw (loaded v30)) = (0, [0x2002, 0x5, 0xA], [0, 0, 0]) ∧
    results (after .decpw (loaded (v30.set 3 501))) = (0, [0x2003, 0x5, 0xA], [0, 0, 0]) ∧
    results (after .decpw (loaded (v30.set 3 1501))) = (0, [0, 0, 0], [3, 1501, 1500]) ∧
    results (after .decpw (loaded (v30.set 3 8001))) = (0, [0, 0, 0], [0, 0, 12]) := by decide +kernel
/-- V33, V34. -/
theorem test_decpw_counts : results (after .decpw (loaded ((v30.set 0 2800).set 1 2800))) = (0, [0, 0, 0], [0, 25, 8]) ∧
    results (after .decpw (loaded (v30.set 27 9000))) = (0, [0, 0, 0], [0, 12, 8]) ∧
    results (after .decpw (loaded (v30.set 35 9000))) = (0, [0, 0, 0], [0, 16, 24]) := by decide +kernel
/-- V5, V51. -/
theorem test_decnec_v5 : (after .decnec (loaded v5)).resl = 0x50AF3FC0#32 ∧
    results (after .decnec (loaded (v5.set 1 2250))) = (0, [0, 0, 0], [1, 2250, 4480]) ∧
    results (after .decnec (loaded (v5.set 11 1000))) = (0, [0, 0, 0], [11, 1000, 1680]) ∧
    results (after .decnec (loaded (v5.set 66 100))) = (0, [0, 0, 0], [66, 100, 560]) := by decide +kernel
/-- V4, V54. -/
theorem test_decnec_repeat : (after .decnec (loaded [9000, 2250, 560, 40000])).status.word = 0x0000000E#32 ∧
    (after .decnec (loaded [11226, 2788, 726, 0xFFFFFFFF])).status.word = 0x0000000E#32 ∧
    results (after .decnec (loaded [9000, 2250, 727, 0])) = (0, [0, 0, 0], [2, 727, 560]) := by decide +kernel

/-! ## Host port, reset and the step -/

/-- V70. -/
theorem test_reads_after_reset : (event (.read 0x002) State.reset).rdata = some 0x00001419#32 ∧
    (event (.read 0x008) State.reset).rdata = some 8960#32 ∧ (event (.read 0x001) State.reset).rdata = some 0#32 ∧
    (event (.read 0x00D) State.reset).rdata = some 40000#32 := by decide +kernel
/-- V71: a write before the completion is lost and shows in `HZD`. -/
theorem test_write_while_busy :
    (stepped (stepped (stepped { pending 0x306#32 1 [.write 0x007 2#32] with encval := 5#32 }))).status.word = 0x16#32 ∧
    front (stepped (stepped { pending 0x306#32 1 [.write 0x007 2#32] with encval := 5#32 })) 6 =
      [560, 1680, 560, 560, 560, 1680] := by decide +kernel
/-- V60: an illegal word completes as a failure that names it. -/
theorem test_illegal_completes : (stepped (pending 0x00000108#32 0 [])).status.word = 0x00003202#32 ∧
    results (stepped (pending 0x00000108#32 0 [])) = (0, [0, 0, 0], [0, 0x108, 0]) := by decide +kernel
/-- V75. -/
theorem test_unmapped : perform (.read 0x00F) State.reset = .fault (.unmappedIndex 0x00F) ∧
    perform (.write 0x018 1#32) State.reset = .fault (.unmappedIndex 0x018) := ⟨rfl, rfl⟩
theorem test_placed_word_runs : (stepped ({ State.reset with opb := 4#32 }.withFetchWord 32 0x1)).resl = 300#32 := by
  decide +kernel

/-! ## Witnesses: states and operands that meet all hypotheses of a statement, each clause at a boundary -/

theorem witness_DecodeOfEncodeIsTheCommand : WellFormed (.encfr .lsb 63) ∧ WellFormed .tlo := by decide +kernel
theorem witness_LegalWordsAreTheNineMatches : decode 0x00003F17#32 = .legal (.encfr .lsb 63) ∧
    (32 < 33 ∨ BitOrder.msb = .lsb ∧ 33 % 8 ≠ 0) ∧ (32 < 1 ∨ BitOrder.lsb = .lsb ∧ 1 % 8 ≠ 0) := by decide +kernel
theorem witness_IllegalWordFailsWithBadcmd : State.reset.status.busy = false ∧
    (∀ w ∈ [0x25, 0x4005, 0, 0xA, 0x11, 0x108], (pending (BitVec.ofNat 32 w) 0 []).commitDue = true ∧
      IllegalShape (pending (BitVec.ofNat 32 w) 0 []).pend) ∧
    ¬ IllegalShape 0x00003F15#32 := by unfold IllegalShape; decide +kernel
theorem witness_StepRunsThePendingCommand : (pending 0x9#32 0 [.wait]).commitDue = true ∧
    decode (pending 0x9#32 0 [.wait]).pend = .legal .decnec := by decide +kernel
theorem witness_PlacedWordRunsNext : decodeTableWord 32 0x2017 = some (.encfr .lsb 32) := by decide +kernel
theorem witness_StepTakesTheOldestEvent : State.reset.commitDue = false ∧ State.reset.inbox = [] ∧
    (pending 0x9#32 1 [.wait]).commitDue = false ∧ (pending 0x9#32 1 [.wait]).inbox = .wait :: [] := by decide +kernel
theorem witness_MatcherCornerCases : 19 < 20 := by decide +kernel
theorem witness_MspaceAnswersOneOrZero : ({ State.reset with opb := 19#32 } : State).opb.toNat < 20 := by decide +kernel
theorem witness_DecpdBitCountRule : (63 < 64 ∧ (32 < 63 ∨ BitOrder.msb = .lsb ∧ 63 % 8 ≠ 0)) ∧
    (31 < 64 ∧ (32 < 31 ∨ BitOrder.lsb = .lsb ∧ 31 % 8 ≠ 0)) ∧
    ({ State.reset with len := 256#32 } : State).len.toNat ≤ 256 := by decide +kernel
theorem witness_LengthBeyondCapacityFails : 32 ≤ 32 ∧ (BitOrder.lsb = .lsb → 32 % 8 = 0) ∧
    256 < ({ State.reset with len := 257#32 } : State).len.toNat ∧
    Instr.decpd .lsb 32 ∈ [Instr.decpd .lsb 32, .decpw, .decnec] := by decide +kernel
theorem witness_EncoderMisuseIsRefused : (33 < 64 ∧ 32 < 33) ∧ (31 < 64 ∧ 31 ≤ 32 ∧ BitOrder.lsb = .lsb ∧ 31 % 8 ≠ 0) ∧
    (0 < 64 ∧ 0 ≤ 32 ∧ (BitOrder.lsb = .lsb → 0 % 8 = 0) ∧ 2 ^ 0 ≤ ({ State.reset with encval := 1#32 } : State).encval.toNat) ∧
    Instr.encfr .lsb 0 ∈ [Instr.encpd .lsb 0, .encfr .lsb 0] ∧
    (after (.encfr .lsb 0) { State.reset with encval := 1#32 }).status.ok = false := by decide +kernel
theorem witness_DecpdTooFewPairsFails : 3 ≤ 32 ∧ (BitOrder.msb = .lsb → 3 % 8 = 0) ∧
    (loaded [560, 1680, 560, 560, 560]).len.toNat ≤ 256 ∧ (loaded [560, 1680, 560, 560, 560]).len.toNat / 2 < 3 := by
  decide +kernel
/-- Both clauses, at the last pair (`r = n - 1`), and the mark clause at the first. -/
theorem witness_DecpdFirstBadElementIsReported :
    (2 ≤ 32 ∧ (BitOrder.msb = .lsb → 2 % 8 = 0) ∧ (loaded [560, 676, 560, 677]).len.toNat ≤ 256 ∧
      2 ≤ (loaded [560, 676, 560, 677]).len.toNat / 2 ∧ 1 < 2) ∧
    (∀ b ∈ [[560, 676, 560, 677], [560, 676, 727, 676]], ∀ j < 1,
      matchMark ((loaded b).dur (2 * j)) (loaded b).bitm.toNat = true ∧
      (matchSpace ((loaded b).dur (2 * j + 1)) (loaded b).ones.toNat = true ∨
        matchSpace ((loaded b).dur (2 * j + 1)) (loaded b).zeros.toNat = true)) ∧
    matchMark ((loaded [560, 676, 727, 676]).dur (2 * 1)) 560 = false ∧
    matchMark ((loaded [560, 676, 560, 677]).dur (2 * 1)) 560 = true ∧
    matchSpace ((loaded [560, 676, 560, 677]).dur (2 * 1 + 1)) 1680 = false ∧
    matchSpace ((loaded [560, 676, 560, 677]).dur (2 * 1 + 1)) 560 = false ∧
    matchMark ((loaded [434, 676]).dur (2 * 0)) 560 = false := by decide +kernel
theorem witness_DecpdValueIsTheWeightedSum :
    16 ≤ 32 ∧ (BitOrder.lsb = .lsb → 16 % 8 = 0) ∧ (loaded v41).len.toNat ≤ 256 ∧ 16 ≤ (loaded v41).len.toNat / 2 ∧
    ∀ j < 16, matchMark ((loaded v41).dur (2 * j)) (loaded v41).bitm.toNat = true ∧
      (matchSpace ((loaded v41).dur (2 * j + 1)) (loaded v41).ones.toNat = true ∨
        matchSpace ((loaded v41).dur (2 * j + 1)) (loaded v41).zeros.toNat = true) := by decide +kernel
/-- At the two ends of the bit count. -/
theorem witness_EncpdWritesThePairs : (0 ≤ 32 ∧ (BitOrder.lsb = .lsb → 0 % 8 = 0) ∧ State.reset.encval.toNat < 2 ^ 0) ∧
    32 ≤ 32 ∧ (BitOrder.lsb = .lsb → 32 % 8 = 0) ∧
    ({ State.reset with encval := 0xFFFFFFFF#32 } : State).encval.toNat < 2 ^ 32 := by decide +kernel
theorem witness_EncfrWritesTheFrame : (0 ≤ 32 ∧ (BitOrder.lsb = .lsb → 0 % 8 = 0) ∧ State.reset.encval.toNat < 2 ^ 0) ∧
    32 ≤ 32 ∧ (BitOrder.msb = .lsb → 32 % 8 = 0) ∧
    ({ State.reset with encval := 0xFFFFFFFF#32 } : State).encval.toNat < 2 ^ 32 := by decide +kernel
theorem witness_DecpdInvertsEncpd : 32 ≤ 32 ∧ (BitOrder.lsb = .lsb → 32 % 8 = 0) ∧
    ({ State.reset with encval := 0x50AF3FC0#32 } : State).encval.toNat < 2 ^ 32 ∧
    matchMark State.reset.bitm.toNat State.reset.bitm.toNat = true ∧
    matchSpace State.reset.ones.toNat State.reset.ones.toNat = true ∧
    matchSpace State.reset.zeros.toNat State.reset.zeros.toNat = true ∧
    matchSpace State.reset.zeros.toNat State.reset.ones.toNat = false := by decide +kernel
theorem witness_DecnecInvertsEncfr (v : Word) : ({ State.reset with encval := v } : State).hdrm = State.reset.hdrm ∧
    ({ State.reset with encval := v } : State).hdrs = State.reset.hdrs ∧
    ({ State.reset with encval := v } : State).bitm = State.reset.bitm ∧
    ({ State.reset with encval := v } : State).ones = State.reset.ones ∧
    ({ State.reset with encval := v } : State).zeros = State.reset.zeros := ⟨rfl, rfl, rfl, rfl, rfl⟩
/-- A count: `n` data pairs after a leader, with a closing trailer (V35). -/
def counted (n : Nat) : State := loaded ([3400, 1700] ++ (List.replicate n [425, 425]).flatten ++ [425, 40000])
theorem witness_TrailerCutAndLeaderDrop : 0 < pwKept (counted 0).dur 2 ∧ pwKept (counted 0).dur 2 < 2 := by decide +kernel
/-- Each clause at its boundaries: 0, 11, 12, 23, 16. -/
theorem witness_PulseWidthPairCountRule : ∀ n ∈ [0, 11, 12, 23, 16], (counted n).len.toNat ≤ 256 ∧
    n = pwKept (counted n).dur ((counted n).len.toNat / 2) -
      pwBase (counted n).dur (pwKept (counted n).dur ((counted n).len.toNat / 2)) ∧
    (n < 12 ∨ (12 ≤ n ∧ n % 8 ≠ 0) ∨ n = 16) := by decide +kernel
/-- The first and the last of the 24 spaces. -/
theorem witness_UnclassifiedSpaceFails : ∀ p ∈ [(0, v30.set 3 1501), (23, v30.set 49 1501)],
    (loaded p.2).len.toNat ≤ 256 ∧ 1 = pwBase (loaded p.2).dur (pwKept (loaded p.2).dur ((loaded p.2).len.toNat / 2)) ∧
    24 = pwKept (loaded p.2).dur ((loaded p.2).len.toNat / 2) - 1 ∧ 24 % 8 = 0 ∧ 24 ≤ 24 ∧ p.1 < 24 ∧
    (∀ j < p.1, (loaded p.2).dur (2 * (1 + j) + 1) ≤ 1500) ∧ 1500 < (loaded p.2).dur (2 * (1 + p.1) + 1) := by
  decide +kernel
theorem witness_DecpwExtractsTheThreeFields :
    (loaded v30).len.toNat ≤ 256 ∧ 1 = pwBase (loaded v30).dur (pwKept (loaded v30).dur ((loaded v30).len.toNat / 2)) ∧
    24 = pwKept (loaded v30).dur ((loaded v30).len.toNat / 2) - 1 ∧ 24 % 8 = 0 ∧ 24 ≤ 24 ∧
    (∀ q < 24, (loaded v30).dur (2 * (1 + q) + 1) ≤ 1500) := by decide +kernel
theorem witness_NecWrongLengthFails : ∀ n ∈ [0, 67, 69, 256],
    ({ State.reset with len := BitVec.ofNat 32 n } : State).len.toNat ≤ 256 ∧
    ({ State.reset with len := BitVec.ofNat 32 n } : State).len.toNat ≠ 68 ∧
    ({ State.reset with len := BitVec.ofNat 32 n } : State).len.toNat ≠ 4 := by decide +kernel
/-- The three clauses, one step outside their windows (V54). -/
theorem witness_NecBadHeaderFails :
    ((loaded [6734, 2250, 560, 0]).len.toNat = 4 ∧
      ¬ (6735 ≤ (loaded [6734, 2250, 560, 0]).dur 0 ∧ (loaded [6734, 2250, 560, 0]).dur 0 ≤ 11226)) ∧
    (6735 ≤ (loaded (v5.set 1 5577)).dur 0 ∧ (loaded (v5.set 1 5577)).dur 0 ≤ 11226 ∧
      (loaded (v5.set 1 5577)).len.toNat = 68 ∧
      ¬ (3345 ≤ (loaded (v5.set 1 5577)).dur 1 ∧ (loaded (v5.set 1 5577)).dur 1 ≤ 5576)) ∧
    (6735 ≤ (loaded [6735, 1672, 560, 0]).dur 0 ∧ (loaded [6735, 1672, 560, 0]).dur 0 ≤ 11226 ∧
      (loaded [6735, 1672, 560, 0]).len.toNat = 4 ∧
      ¬ (1673 ≤ (loaded [6735, 1672, 560, 0]).dur 1 ∧ (loaded [6735, 1672, 560, 0]).dur 1 ≤ 2788)) := by decide +kernel
/-- Bad mark in the last pair, bad space in the first. -/
theorem witness_NecFirstBadElementIsReported :
    (∀ b ∈ [v5.set 64 300, v5.set 3 1000], (loaded b).len.toNat = 68 ∧ matchMark ((loaded b).dur 0) 8960 = true ∧
      matchSpace ((loaded b).dur 1) 4480 = true) ∧ 31 < 32 ∧ 0 < 32 ∧
    (∀ j < 31, matchMark ((loaded (v5.set 64 300)).dur (2 + 2 * j)) 560 = true ∧
      (matchSpace ((loaded (v5.set 64 300)).dur (3 + 2 * j)) 1680 = true ∨
        matchSpace ((loaded (v5.set 64 300)).dur (3 + 2 * j)) 560 = true)) ∧
    matchMark ((loaded (v5.set 64 300)).dur (2 + 2 * 31)) 560 = false ∧
    matchMark ((loaded (v5.set 3 1000)).dur (2 + 2 * 0)) 560 = true ∧
    matchSpace ((loaded (v5.set 3 1000)).dur (3 + 2 * 0)) 1680 = false ∧
    matchSpace ((loaded (v5.set 3 1000)).dur (3 + 2 * 0)) 560 = false := by decide +kernel
/-- Both clauses: a good and a bad stop mark. -/
theorem witness_NecFullFrameDecodes : ∀ b ∈ [v5, v5.set 66 727], (loaded b).len.toNat = 68 ∧
    matchMark ((loaded b).dur 0) 8960 = true ∧ matchSpace ((loaded b).dur 1) 4480 = true ∧
    (∀ j < 32, matchMark ((loaded b).dur (2 + 2 * j)) 560 = true ∧
      (matchSpace ((loaded b).dur (3 + 2 * j)) 1680 = true ∨ matchSpace ((loaded b).dur (3 + 2 * j)) 560 = true)) ∧
    matchMark ((loaded b).dur 66) 560 = decide (b = v5) := by decide +kernel
theorem witness_NecRepeatFrameIsRecognised : ∀ x ∈ [435, 726, 434, 727],
    (loaded [9000, 2250, x, 0]).len.toNat = 4 ∧ matchMark ((loaded [9000, 2250, x, 0]).dur 0) 8960 = true ∧
    matchSpace ((loaded [9000, 2250, x, 0]).dur 1) 2250 = true ∧
    ((435 ≤ (loaded [9000, 2250, x, 0]).dur 2 ∧ (loaded [9000, 2250, x, 0]).dur 2 ≤ 726) ↔ x = 435 ∨ x = 726) := by
  decide +kernel
theorem witness_FailureLeavesThePreparedState : exec .decnec State.reset = .next (after .decnec State.reset) ∧
    (after .decnec State.reset).status.ok = false := ⟨rfl, by decide +kernel⟩
theorem witness_OnlyEncodersWriteTheBuffer : exec .tlo State.reset = .next (after .tlo State.reset) ∧
    ∀ o n, Instr.tlo ≠ .encpd o n ∧ Instr.tlo ≠ .encfr o n := ⟨rfl, fun _ _ => ⟨nofun, nofun⟩⟩
/-- Two states that agree on the operands of `DECNEC` and on nothing else that is checked here; likewise of `ENCFR`. -/
theorem witness_OutcomeDependsOnOperandsOnly :
    (ReadsAgree .decnec (loaded [9000, 2250, 560, 0])
        { loaded [9000, 2250, 560, 0, 7] with len := 4#32, opa := 7#32, resl := 9#32 } ∧
      ∃ u v, exec .decnec (loaded [9000, 2250, 560, 0]) = .next u ∧
        exec .decnec { loaded [9000, 2250, 560, 0, 7] with len := 4#32, opa := 7#32, resl := 9#32 } = .next v) ∧
    ReadsAgree (.encfr .msb 0) State.reset { loaded [1, 2, 3] with opa := 7#32 } ∧
    ∃ u v, exec (.encfr .msb 0) State.reset = .next u ∧
      exec (.encfr .msb 0) { loaded [1, 2, 3] with opa := 7#32 } = .next v :=
  ⟨⟨⟨rfl, by unfold SameElems; decide +kernel⟩, _, _, rfl, rfl⟩, ⟨rfl, rfl, rfl, rfl, rfl, rfl, rfl⟩, _, _, rfl, rfl⟩
theorem witness_CodeNumbersCarryTheirClass : ErrCode.eNone.number = ErrCode.eNone.number := rfl
theorem witness_CmdWriteIsAccepted : State.reset.status.busy = false ∧ (pending 0x1#32 1 []).status.busy = true := ⟨rfl, rfl⟩
theorem witness_WriteWhileBusySetsHazard : (pending 0x1#32 1 []).status.busy = true ∧
    (∀ i ∈ [0x000, 0x00E, 0x010, 0x017, 0x100, 0x1FF], (Loc.ofIndex i).isSome = true) ∧
    (pending 0x1#32 1 []).commitDue = true ∧
    step (pending 0x1#32 1 []) = .next (stepped (pending 0x1#32 1 [])) :=
  ⟨by decide +kernel, by decide +kernel, by decide +kernel, rfl⟩
theorem witness_ReadHasNoSideEffect : 0 < 256 ∧ 255 < 256 := by decide +kernel
theorem witness_WriteLandsAtItsPlaceOnly : State.reset.status.busy = false ∧
    (Loc.ofIndex 0x005 = some .opa ∧ Loc.opa.readWrite = true) ∧ (Loc.ofIndex 0x00E = some .len ∧ Loc.len.readWrite = true) ∧
    (Loc.ofIndex 0x100 = some (.buf 0) ∧ (Loc.buf 0).readWrite = true) ∧
    (Loc.ofIndex 0x1FF = some (.buf 255) ∧ (Loc.buf 255).readWrite = true) := by decide +kernel
theorem witness_ReadOnlyWritesAreIgnored :
    ({ State.reset with status := { State.reset.status with hzd := true } } : State).status.busy = false := rfl
theorem witness_UnmappedAccessStops :
    (∀ i ∈ [0x00F, 0x018, 0x0FF, 0x200], i = 0x00F ∨ (0x018 ≤ i ∧ i ≤ 0x0FF) ∨ 0x200 ≤ i) ∧
    (∀ i ∈ [0x000, 0x00E, 0x010, 0x017, 0x100, 0x1FF], ¬ (i = 0x00F ∨ (0x018 ≤ i ∧ i ≤ 0x0FF) ∨ 0x200 ≤ i)) := by decide +kernel
theorem witness_WaitPollsUntilDone : State.reset.status.done = false ∧ (after .tlo State.reset).status.done = true := by
  decide +kernel
theorem witness_EmptyBufferFailsOnLength : State.reset.len = 0 ∧ 0 < 8 ∧ 8 ≤ 32 ∧ (BitOrder.lsb = .lsb → 8 % 8 = 0) := by
  decide +kernel
theorem witness_RunningCommandIsUndisturbed :
    (pending 0x1#32 2 [.write 0x007 2#32, .wait, .read 0x001]).status.busy = true ∧
    ∀ e ∈ (pending 0x1#32 2 [.write 0x007 2#32, .wait, .read 0x001]).inbox, e.harmless = true := by decide +kernel
theorem witness_StepKeepsTheInvariant : State.reset.Inv ∧ step State.reset = .next State.reset :=
  ⟨⟨by decide, by decide, by decide, by decide, by decide, fun h => absurd rfl h, by decide, by decide, by decide,
    by decide⟩, rfl⟩

end Sys2Proof.Tests
end

section
/-! PROOFS. Noninterference (00_scope.md R13): a command's outcome reads only the operands of 30_encoding.md R81, and one
outcome committed in two states shows the same in both. -/

namespace Sys2Proof.Machine

/-! The checks and decoders read only the elements named. -/

theorem SameElems.dur_eq {n k : Nat} {s t : State} (h : SameElems n s t) (hk : k < n) : s.dur k = t.dur k :=
  congrArg BitVec.toNat (h k hk)

/-- Two guarded outcomes are equal when they are equal behind the passed check. -/
theorem unlessFail_congr {c : Option Failure} {o o' : CmdOutcome} (h : c = none → o = o') :
    unlessFail c o = unlessFail c o' := by
  cases c with
  | none => exact h rfl
  | some f => rfl

theorem lenCheck_congr {s t : State} (h : s.len = t.len) : lenCheck s = lenCheck t := by
  simp only [lenCheck, h]

theorem rangeCheck_congr {s t : State} (h : s.encval = t.encval) (nbits : Nat) :
    rangeCheck s nbits = rangeCheck t nbits := by
  simp only [rangeCheck, h]

theorem markCheck_congr {e e' : Nat → Nat} {k : Nat} (h : e k = e' k) (code : ErrCode) (nominal : Nat) :
    markCheck e code k nominal = markCheck e' code k nominal := by
  simp only [markCheck, h]

theorem spaceCheck_congr {e e' : Nat → Nat} {k : Nat} (h : e k = e' k) (code : ErrCode) (nominal : Nat) :
    spaceCheck e code k nominal = spaceCheck e' code k nominal := by
  simp only [spaceCheck, h]

/-- `decode_pd` reads only the `nbits` pairs, and those only when `LEN` holds them. -/
theorem decodePd_congr {e e' : Nat → Nat} {len nbits : Nat} (h : ∀ k, k < min (2 * nbits) len → e k = e' k)
    (ord : BitOrder) (bm os zs : Nat) :
    decodePd e len nbits ord bm os zs = decodePd e' len nbits ord bm os zs := by
  unfold decodePd
  split_ifs with hshort
  · rfl
  · exact decodePairs_congr 0 bm os zs ord nbits 0 0 fun k _ hk => h k (by omega)

/-- The frame length passes as a full frame or a repeat frame (44_nec_frame_decode.md R171). -/
theorem necLengthCheck_eq_none {len : Nat} (h : necLengthCheck len = none) : len = 68 ∨ len = 4 := by
  unfold necLengthCheck at h
  split_ifs at h with hlen
  exact hlen

/-- The data of a frame are the 64 elements from element 2 on. -/
theorem necData_congr {e e' : Nat → Nat} {len : Nat} (h : ∀ k, k < len → e k = e' k) :
    necData e len = necData e' len := by
  unfold necData
  split_ifs with hfull
  · refine decodePairs_congr 2 _ _ _ _ _ 0 0 fun k _ hk => h k ?_
    simp only [Config.necFullLen, Config.necBits] at hfull hk
    omega
  · rfl

theorem necStop_congr {e e' : Nat → Nat} {len : Nat} (h : e (len - 2) = e' (len - 2)) (x : Except Failure Nat) :
    necStop e len x = necStop e' len x := by
  cases x with
  | error f => rfl
  | ok v => simp only [necStop, markCheck_congr h]

/-- `decode_nec` reads only below `LEN`. -/
theorem decodeNec_congr {e e' : Nat → Nat} {len : Nat} (h : ∀ k, k < len → e k = e' k) :
    decodeNec e len = decodeNec e' len := by
  refine unlessFail_congr fun hlen => ?_
  have hframe := necLengthCheck_eq_none hlen
  rw [markCheck_congr (h 0 (by omega)), spaceCheck_congr (h 1 (by omega)), necData_congr h,
    necStop_congr (h (len - 2) (by omega))]

theorem pairExceeds_congr {e e' : Nat → Nat} {r : Nat} (hm : e (2 * r) = e' (2 * r))
    (hs : e (2 * r + 1) = e' (2 * r + 1)) (limit : Nat) : pairExceeds e r limit = pairExceeds e' r limit := by
  simp only [pairExceeds, hm, hs]

theorem pwKept_congr {e e' : Nat → Nat} {pairs : Nat} (h : ∀ k, k < 2 * pairs → e k = e' k) :
    pwKept e pairs = pwKept e' pairs := by
  have hfind : ∀ r ∈ List.range pairs, pairExceeds e r Config.pwTrailer = pairExceeds e' r Config.pwTrailer := by
    intro r hr
    have hr := List.mem_range.1 hr
    exact pairExceeds_congr (h _ (by omega)) (h _ (by omega)) _
  simp only [pwKept, List.find?_congr hfind]

theorem pwKept_le (e : Nat → Nat) (pairs : Nat) : pwKept e pairs ≤ pairs := by
  unfold pwKept
  cases hfind : (List.range pairs).find? fun r => pairExceeds e r Config.pwTrailer with
  | none => exact le_refl pairs
  | some r => exact (List.mem_range.1 (List.mem_of_find?_eq_some hfind)).le

theorem pwBase_congr {e e' : Nat → Nat} {kept : Nat} (h : ∀ k, k < 2 * kept → e k = e' k) :
    pwBase e kept = pwBase e' kept := by
  rcases Nat.eq_zero_or_pos kept with rfl | hpos
  · rfl
  · simp only [pwBase, pairExceeds_congr (h (2 * 0) (by omega)) (h (2 * 0 + 1) (by omega))]

/-- A pair count that passes holds the three fields (43_pulse_width_decode.md R154). -/
theorem le_of_pwCountCheck_eq_none {n : Nat} (h : pwCountCheck n = none) : Config.pwFieldPairs ≤ n := by
  unfold pwCountCheck at h
  split_ifs at h
  omega

theorem pwClassCheck_congr {e e' : Nat → Nat} {base : Nat}
    (h : ∀ q, q < Config.pwFieldPairs → e (pwSpaceIndex base q) = e' (pwSpaceIndex base q)) :
    pwClassCheck e base = pwClassCheck e' base := by
  have hfind : ∀ q ∈ List.range Config.pwFieldPairs,
      decide (Config.pwT1 < e (pwSpaceIndex base q)) = decide (Config.pwT1 < e' (pwSpaceIndex base q)) := by
    intro q hq
    rw [h q (List.mem_range.1 hq)]
  unfold pwClassCheck
  rw [List.find?_congr hfind]
  refine Option.map_congr fun q hq => ?_
  rw [h q (List.mem_range.1 (List.mem_of_find?_eq_some hq))]

theorem pwField_congr {e e' : Nat → Nat} {base first count : Nat}
    (h : ∀ q, q < first + count → e (pwSpaceIndex base q) = e' (pwSpaceIndex base q)) :
    pwField e base first count = pwField e' base first count := by
  refine congrArg List.sum (List.map_congr_left fun q hq => ?_)
  have hq := List.mem_range.1 hq
  rw [h (first + q) (by omega)]

/-- `decode_pw` reads only the whole pairs below `LEN`. -/
theorem decodePw_congr {e e' : Nat → Nat} {len : Nat} (h : ∀ k, k < len → e k = e' k) :
    decodePw e len = decodePw e' len := by
  have hle := pwKept_le e' (len / 2)
  have hkept : pwKept e (len / 2) = pwKept e' (len / 2) := pwKept_congr fun k hk => h k (by omega)
  simp only [decodePw, hkept]
  generalize pwKept e' (len / 2) = kept at hle
  rw [pwBase_congr fun k hk => h k (by omega)]
  generalize pwBase e' kept = base
  refine unlessFail_congr fun hcount => ?_
  have hn := le_of_pwCountCheck_eq_none hcount
  have hspace : ∀ q, q < Config.pwFieldPairs → e (pwSpaceIndex base q) = e' (pwSpaceIndex base q) := by
    intro q hq
    have hpos : 0 < Config.pwFieldPairs := by decide
    exact h _ (by unfold pwSpaceIndex; omega)
  rw [pwClassCheck_congr hspace, pwField_congr (first := 0) (count := 16) fun q hq => hspace q (hq.trans (by decide)),
    pwField_congr (first := 16) (count := 4) fun q hq => hspace q (hq.trans (by decide)),
    pwField_congr (first := 20) (count := 4) hspace]

/-- The outcome of a command is a function of its operands (30_encoding.md R81). -/
theorem outcome_congr {i : Instr} {s t : State} (h : ReadsAgree i s t) : outcome i s = outcome i t := by
  cases i with
  | tlo =>
    have hopb : s.opb = t.opb := h
    simp only [outcome, tloOutcome, hopb]
  | thi =>
    have hopb : s.opb = t.opb := h
    simp only [outcome, thiOutcome, hopb]
  | mmark =>
    obtain ⟨hopa, hopb⟩ := h
    simp only [outcome, mmarkOutcome, hopa, hopb]
  | mspace =>
    obtain ⟨hopa, hopb⟩ := h
    simp only [outcome, mspaceOutcome, hopa, hopb]
  | decpd ord nbits =>
    obtain ⟨hbitm, hones, hzeros, hlen, helem⟩ := h
    rw [hlen] at helem
    have hpd := decodePd_congr (e := s.dur) (e' := t.dur) fun k => helem.dur_eq
    simp only [outcome, decpdOutcome, hpd, lenCheck_congr hlen, hbitm, hones, hzeros, hlen]
  | encpd ord nbits =>
    obtain ⟨hencval, hbitm, hones, hzeros⟩ := h
    simp only [outcome, encpdOutcome, rangeCheck_congr hencval, hencval, hbitm, hones, hzeros]
  | encfr ord nbits =>
    obtain ⟨hencval, hhdrm, hhdrs, hbitm, hones, hzeros, hgap⟩ := h
    simp only [outcome, encfrOutcome, rangeCheck_congr hencval, hencval, hhdrm, hhdrs, hbitm, hones, hzeros, hgap]
  | decpw =>
    obtain ⟨hlen, helem⟩ := h
    rw [hlen] at helem
    have hpw := decodePw_congr (e := s.dur) (e' := t.dur) fun k => helem.dur_eq
    simp only [outcome, decpwOutcome, hpw, lenCheck_congr hlen, hlen]
  | decnec =>
    obtain ⟨hlen, helem⟩ := h
    rw [hlen] at helem
    have hnec := decodeNec_congr (e := s.dur) (e' := t.dur) fun k => helem.dur_eq
    simp only [outcome, decnecOutcome, hnec, lenCheck_congr hlen, hlen]

/-! One outcome committed in two states. -/

/-- The commit sets every flag but `HZD`, every result and the context from the outcome alone. -/
theorem commit_sameOutcome (o : CmdOutcome) (s t : State) : SameOutcome (commit o s) (commit o t) := by
  cases o <;> constructor <;> rfl

/-- A success with data leaves `LEN` at their number. -/
theorem commitOk_len_of_data {r : Results} {l : List Word} (hdata : r.data = some l)
    (hl : l.length ≤ Config.bufCap) (s : State) : (commitOk r s).len.toNat = l.length := by
  unfold Config.bufCap at hl
  rw [commitOk_len, hdata, writeData_some_len, BitVec.toNat_ofNat, Nat.mod_eq_of_lt (by omega)]

/-- A success with data leaves them below `LEN` and every later element untouched. -/
theorem commitOk_elem_of_data {r : Results} {l : List Word} (hdata : r.data = some l) (s : State) (k : Nat) :
    (commitOk r s).elem k = if h : k < l.length then l[k] else s.elem k := by
  rw [elem_commitOk, hdata, elem_writeData]

/-- The same data committed in two states: the written elements are equal, the others untouched. -/
theorem commitOk_written {r : Results} {l : List Word} (hdata : r.data = some l) (hl : l.length ≤ Config.bufCap)
    (s t : State) :
    (commitOk r s).len = (commitOk r t).len ∧
    SameElems (commitOk r s).len.toNat (commitOk r s) (commitOk r t) ∧
    (∀ k, (commitOk r s).len.toNat ≤ k → (commitOk r s).elem k = s.elem k) ∧
    (∀ k, (commitOk r t).len.toNat ≤ k → (commitOk r t).elem k = t.elem k) := by
  have hrest : ∀ (x : State) (k : Nat), (commitOk r x).len.toNat ≤ k → (commitOk r x).elem k = x.elem k := by
    intro x k hk
    rw [commitOk_len_of_data hdata hl] at hk
    rw [commitOk_elem_of_data hdata, dif_neg hk.not_gt]
  refine ⟨?_, fun k hk => ?_, hrest s, hrest t⟩
  · simp only [commitOk_len, hdata, writeData_some_len]
  · rw [commitOk_len_of_data hdata hl] at hk
    simp only [commitOk_elem_of_data hdata, dif_pos hk]

/-- Settles O38: the outcome is a function of the operands, and its commit shows it whatever else the state holds. -/
theorem outcomeDependsOnOperandsOnly : Obligations.OutcomeDependsOnOperandsOnly := by
  intro i s t u v hreads hu hv
  rw [exec_eq] at hu hv
  cases hu
  cases hv
  rw [← outcome_congr hreads]
  refine ⟨commit_sameOutcome _ s t, ?_⟩
  cases ho : outcome i s with
  | fail f => exact .inl ⟨commit_bufferKept nofun, commit_bufferKept nofun⟩
  | ok r =>
    cases hdata : r.data with
    | none =>
      have hnone : ∀ r', CmdOutcome.ok r = .ok r' → r'.data = none := fun r' h => CmdOutcome.ok.inj h ▸ hdata
      exact .inl ⟨commit_bufferKept hnone, commit_bufferKept hnone⟩
    | some l =>
      obtain ⟨-, -, -, -, hcap⟩ := outcome_ok_shape ho
      exact .inr (commitOk_written hdata (hcap l hdata) s t)

end Sys2Proof.Machine
end

section
/-! PROOFS. The timing buffer's length (20_memory.md R63): a decoder looks at `LEN` before any other use of it. -/

namespace Sys2Proof.Machine

/-- Beyond the capacity the length check names the length found and the capacity. -/
theorem lenCheck_eq_some {s : State} (h : 256 < s.len.toNat) : lenCheck s = some ⟨.eBadlen, 0, s.len.toNat, 256⟩ :=
  if_pos h

/-- A check that fails is the outcome, whatever it guards. -/
theorem unlessFail_of_eq_some {c : Option Failure} {f : Failure} (h : c = some f) (o : CmdOutcome) :
    unlessFail c o = .fail f := by
  rw [h]; rfl

/-- The length check settles each decoder's outcome; for `DECPD` only behind the bit count's own check. -/
theorem decoder_outcome_of_lenCheck {ord : BitOrder} {nbits : Nat} {s : State} {f : Failure}
    (hnbits : nbitsCheck ord nbits = none) (hlen : lenCheck s = some f) :
    ∀ i ∈ [Instr.decpd ord nbits, .decpw, .decnec], outcome i s = .fail f := by
  simp only [List.forall_mem_cons, outcome]
  refine ⟨?_, ?_, ?_, nofun⟩
  · rw [decpdOutcome, hnbits]
    exact unlessFail_of_eq_some hlen _
  · exact unlessFail_of_eq_some hlen _
  · exact unlessFail_of_eq_some hlen _

/-- Settles O17: the length check is the first that fails, and its failure is what the decoder commits. -/
theorem lengthBeyondCapacityFails : Obligations.LengthBeyondCapacityFails := by
  intro ord nbits s hle hord hlen i hi
  have hnbits : nbitsCheck ord nbits = none := (nbitsCheck_eq_none ord nbits).2 ⟨hle, hord⟩
  exact exec_fails (decoder_outcome_of_lenCheck hnbits (lenCheck_eq_some hlen) i hi)
    (Nat.two_pow_pos 32) s.len.isLt (by norm_num)

end Sys2Proof.Machine
end

section
/-! PROOFS. The decoder by its fields (30_encoding.md R71 to R79): a word is its five fields, and a decoded word is the
encoding of its command. -/

namespace Sys2Proof

/-! A word and its fields. -/

theorem opField_lt (w : Word) : opField w < 16 := Nat.mod_lt _ (by decide)
theorem ordField_lt (w : Word) : ordField w < 2 := Nat.mod_lt _ (by decide)
theorem nbitsField_lt (w : Word) : nbitsField w < 64 := Nat.mod_lt _ (by decide)

/-- A word is the sum of its five fields, each at its place (30_encoding.md R71). -/
theorem toNat_eq_fields (w : Word) :
    w.toNat = opField w + 2 ^ 4 * ordField w + 2 ^ 5 * rsv0Field w + 2 ^ 8 * nbitsField w + 2 ^ 14 * rsv1Field w := by
  have hw := w.isLt
  simp only [opField, ordField, rsv0Field, nbitsField, rsv1Field, bits]
  omega

/-- A range of bits of a masked word is that range masked. -/
theorem bits_and (w m : Word) (hi lo : Nat) : bits (w &&& m) hi lo = bits w hi lo &&& bits m hi lo := by
  simp only [bits, BitVec.toNat_and, Nat.and_div_two_pow, Nat.and_mod_two_pow]

/-- A range of bits under a mask with every bit of the range set. -/
theorem bits_and_of_ones {m : Word} {hi lo : Nat} (hm : bits m hi lo = 2 ^ (hi + 1 - lo) - 1) (w : Word) :
    bits (w &&& m) hi lo = bits w hi lo := by
  rw [bits_and, hm, Nat.and_two_pow_sub_one_eq_mod, bits, Nat.mod_mod]

/-- A range of bits under a mask with every bit of the range clear. -/
theorem bits_and_of_zeros {m : Word} {hi lo : Nat} (hm : bits m hi lo = 0) (w : Word) :
    bits (w &&& m) hi lo = 0 := by
  rw [bits_and, hm, Nat.and_zero]

/-- The mask of R79 clears `ord` and `nbits` and keeps the other fields. -/
theorem toNat_and_mask (w : Word) :
    (w &&& 0xFFFFC0EF#32).toNat = opField w + 2 ^ 5 * rsv0Field w + 2 ^ 14 * rsv1Field w := by
  rw [toNat_eq_fields, opField, bits_and_of_ones (by decide), ordField, bits_and_of_zeros (by decide), rsv0Field,
    bits_and_of_ones (by decide), nbitsField, bits_and_of_zeros (by decide), rsv1Field, bits_and_of_ones (by decide)]
  rfl

/-- A masked form of R79: the opcode, and no reserved bit. -/
theorem and_mask_eq_iff (w : Word) {op : Nat} (hop : op < 16) :
    w &&& 0xFFFFC0EF#32 = BitVec.ofNat 32 op ↔ opField w = op ∧ rsv0Field w = 0 ∧ rsv1Field w = 0 := by
  have hlt := opField_lt w
  rw [← BitVec.toNat_inj, toNat_and_mask, BitVec.toNat_ofNat]
  omega

/-- A word without reserved bits is the command word of its other fields. -/
theorem commandWord_fields {w : Word} (h0 : rsv0Field w = 0) (h1 : rsv1Field w = 0) :
    commandWord (opField w) (ordField w) (nbitsField w) = w := by
  have hw := toNat_eq_fields w
  apply BitVec.eq_of_toNat_eq
  rw [commandWord, BitVec.toNat_ofNat]
  omega

theorem BitOrder.toField_ofField {n : Nat} (h : n < 2) : (BitOrder.ofField n).toField = n := by
  match n, h with
  | 0, _ => rfl
  | 1, _ => rfl

/-! What each part of the decoder accepts. -/

theorem decodeFixed_eq_legal {w : Word} {i j : Instr} :
    decodeFixed w i = .legal j ↔ i = j ∧ ordField w = 0 ∧ nbitsField w = 0 := by
  unfold decodeFixed
  split_ifs with h <;> simp [h]

theorem decode_eq_legal {w : Word} {i : Instr} :
    decode w = .legal i ↔ rsv0Field w = 0 ∧ rsv1Field w = 0 ∧ decodeOp w = .legal i := by
  unfold decode
  split_ifs with h
  · exact ⟨nofun, fun ⟨h0, h1, _⟩ => absurd h (by simp [h0, h1])⟩
  · simp only [not_or, not_not] at h
    simp [h]

/-- A decoded command without fields has one word (30_encoding.md R75). -/
theorem encode_of_decodeFixed {w : Word} {i j : Instr} {op : Nat} (hop : opField w = op)
    (hi : encode i = commandWord op 0 0 ∧ WellFormed i) (h0 : rsv0Field w = 0) (h1 : rsv1Field w = 0)
    (h : decodeFixed w i = .legal j) : encode j = w ∧ WellFormed j := by
  obtain ⟨rfl, hord, hnbits⟩ := decodeFixed_eq_legal.1 h
  refine ⟨?_, hi.2⟩
  rw [hi.1, ← commandWord_fields h0 h1, hop, hord, hnbits]

/-- The command word of a decoded command with fields is the word itself. -/
theorem commandWord_of_fields {w : Word} {op : Nat} (hop : opField w = op) (h0 : rsv0Field w = 0)
    (h1 : rsv1Field w = 0) : commandWord op (BitOrder.ofField (ordField w)).toField (nbitsField w) = w := by
  rw [BitOrder.toField_ofField (ordField_lt w), ← hop, commandWord_fields h0 h1]

/-- A legal word is the encoding of its command (30_encoding.md R79). -/
theorem encode_of_decode {w : Word} {i : Instr} (hdec : decode w = .legal i) : encode i = w ∧ WellFormed i := by
  obtain ⟨h0, h1, hop⟩ := decode_eq_legal.1 hdec
  have hfits : nbitsFits (nbitsField w) = true := decide_eq_true (nbitsField_lt w)
  unfold decodeOp at hop
  split at hop
  case h_1 h | h_2 h | h_3 h | h_4 h | h_8 h | h_9 h => exact encode_of_decodeFixed h ⟨rfl, rfl⟩ h0 h1 hop
  case h_5 h | h_6 h | h_7 h => cases hop; exact ⟨commandWord_of_fields h h0 h1, hfits⟩
  case h_10 => cases hop

/-- A word decodes to a command without fields exactly when it is that command's word. -/
theorem decode_eq_legal_iff_eq {i : Instr} {v : Word} (hi : encode i = v) (hv : decode v = .legal i) (w : Word) :
    decode w = .legal i ↔ w = v :=
  ⟨fun h => (encode_of_decode h).1.symm.trans hi, fun h => h ▸ hv⟩

/-- A word decodes to a command with fields, for some values of them, exactly when it has the command's masked form. -/
theorem exists_decode_iff_and_mask {c : BitOrder → Nat → Instr} {op : Nat} (hop : op < 16)
    (henc : ∀ o n, WellFormed (c o n) → encode (c o n) &&& 0xFFFFC0EF#32 = BitVec.ofNat 32 op)
    (hdec : ∀ w, opField w = op → decodeOp w = .legal (c (.ofField (ordField w)) (nbitsField w))) (w : Word) :
    (∃ o n, decode w = .legal (c o n)) ↔ w &&& 0xFFFFC0EF#32 = BitVec.ofNat 32 op := by
  constructor
  · rintro ⟨o, n, h⟩
    obtain ⟨rfl, hwf⟩ := encode_of_decode h
    exact henc o n hwf
  · intro h
    obtain ⟨hw, h0, h1⟩ := (and_mask_eq_iff w hop).1 h
    exact ⟨_, _, decode_eq_legal.2 ⟨h0, h1, hdec w hw⟩⟩

theorem exists_decode_decpd_iff (w : Word) :
    (∃ o n, decode w = .legal (.decpd o n)) ↔ w &&& 0xFFFFC0EF#32 = 5#32 :=
  exists_decode_iff_and_mask (by decide) Laws.TableRow.decpd (fun w h => by simp only [decodeOp, h]) w

theorem exists_decode_encpd_iff (w : Word) :
    (∃ o n, decode w = .legal (.encpd o n)) ↔ w &&& 0xFFFFC0EF#32 = 6#32 :=
  exists_decode_iff_and_mask (by decide) Laws.TableRow.encpd (fun w h => by simp only [decodeOp, h]) w

theorem exists_decode_encfr_iff (w : Word) :
    (∃ o n, decode w = .legal (.encfr o n)) ↔ w &&& 0xFFFFC0EF#32 = 7#32 :=
  exists_decode_iff_and_mask (by decide) Laws.TableRow.encfr (fun w h => by simp only [decodeOp, h]) w

end Sys2Proof
end

section
/-! PROOFS. The legal words and the illegal ones (30_encoding.md R74 to R79), and what the block does with a written word
(R77, R80 to R83). -/

namespace Sys2Proof.Machine

/-- The bit count's check comes first in each of the three commands with fields (30_encoding.md R80). -/
theorem outcome_of_nbitsCheck {o : BitOrder} {n : Nat} {f : Failure} (h : nbitsCheck o n = some f) (s : State) :
    ∀ i ∈ [Instr.decpd o n, .encpd o n, .encfr o n], outcome i s = .fail f := by
  simp only [List.forall_mem_cons, outcome]
  exact ⟨unlessFail_of_eq_some h _, unlessFail_of_eq_some h _, unlessFail_of_eq_some h _, nofun⟩

/-- An `nbits` out of range fails its check with `E_NBITS` (30_encoding.md R80). -/
theorem nbitsCheck_fails {o : BitOrder} {n : Nat} (h : 32 < n ∨ o = .lsb ∧ n % 8 ≠ 0) :
    ∃ f, nbitsCheck o n = some f ∧ f.code = .eNbits := by
  cases hc : nbitsCheck o n with
  | some f => exact ⟨f, rfl, nbitsCheck_code hc⟩
  | none =>
    obtain ⟨hle, hlsb⟩ := (nbitsCheck_eq_none o n).1 hc
    obtain hlt | ⟨rfl, hmod⟩ := h
    · exact absurd hle hlt.not_ge
    · exact absurd (hlsb rfl) hmod

/-- Settles O2: the decoder's inversion gives each mask one way, the fields of the masked word the other. -/
theorem legalWordsAreTheNineMatches : Obligations.LegalWordsAreTheNineMatches := by
  refine ⟨fun w => ?_, fun w => ?_, fun w i => encode_of_decode, fun o n s h => ?_⟩
  · exact ⟨decode_eq_legal_iff_eq rfl (by decide) w, decode_eq_legal_iff_eq rfl (by decide) w,
      decode_eq_legal_iff_eq rfl (by decide) w, decode_eq_legal_iff_eq rfl (by decide) w,
      decode_eq_legal_iff_eq rfl (by decide) w, decode_eq_legal_iff_eq rfl (by decide) w⟩
  · exact ⟨exists_decode_decpd_iff w, exists_decode_encpd_iff w, exists_decode_encfr_iff w⟩
  · obtain ⟨f, hf, hcode⟩ := nbitsCheck_fails h
    have fails : ∀ i ∈ [Instr.decpd o n, .encpd o n, .encfr o n],
        exec i s = .next (commitFail f s) := by
      intro i hi
      rw [exec_eq, outcome_of_nbitsCheck hf s i hi, commit_fail]
    exact ⟨_, _, _, fails _ (by simp), hcode, fails _ (by simp), hcode, fails _ (by simp), hcode⟩

/-! Illegal words. -/

theorem illegalShape_iff (w : Word) :
    IllegalShape w ↔ (rsv0Field w ≠ 0 ∨ rsv1Field w ≠ 0) ∨ (opField w = 0 ∨ 10 ≤ opField w) ∨
      (opField w ∈ [1, 2, 3, 4, 8, 9] ∧ (ordField w ≠ 0 ∨ nbitsField w ≠ 0)) := by
  have hrsv1 : rsv1Field w = w.toNat / 2 ^ 14 := Nat.mod_eq_of_lt (by have := w.isLt; omega)
  have hop : opField w = w.toNat % 16 := by simp [opField, bits]
  rw [hrsv1, hop]
  rfl

/-- The complement of the illegal shape: six fixed words and three masked forms (30_encoding.md R79). -/
theorem not_illegalShape_iff (w : Word) :
    ¬ IllegalShape w ↔ w.toNat ∈ [1, 2, 3, 4, 8, 9] ∨ (w &&& 0xFFFFC0EF#32).toNat ∈ [5, 6, 7] := by
  have hw := toNat_eq_fields w
  have hop := opField_lt w
  have hord := ordField_lt w
  rw [illegalShape_iff, toNat_and_mask]
  simp only [List.mem_cons, List.not_mem_nil, or_false]
  omega

/-- A decoded word has one of the legal forms. -/
theorem not_illegalShape_of_decode {w : Word} {i : Instr} (h : decode w = .legal i) : ¬ IllegalShape w := by
  rw [not_illegalShape_iff]
  cases i with
  | decpd o n => exact .inr (by rw [(exists_decode_decpd_iff w).1 ⟨o, n, h⟩]; decide)
  | encpd o n => exact .inr (by rw [(exists_decode_encpd_iff w).1 ⟨o, n, h⟩]; decide)
  | encfr o n => exact .inr (by rw [(exists_decode_encfr_iff w).1 ⟨o, n, h⟩]; decide)
  | tlo | thi | mmark | mspace | decpw | decnec => exact .inl (by rw [← (encode_of_decode h).1]; decide)

theorem decode_of_illegalShape {w : Word} (h : IllegalShape w) : ∃ why, decode w = .illegal why := by
  cases hd : decode w with
  | legal i => exact absurd h (not_illegalShape_of_decode hd)
  | illegal why => exact ⟨why, rfl⟩

/-! A written word, and its completion. -/

theorem perform_write_cmd (w : Word) (s : State) : perform (.write 0 w) s = .next (s.writeLoc .cmd w) := rfl

/-- `CMD` accepts a word while idle (30_encoding.md R82). -/
theorem perform_write_cmd_idle {s : State} (h : s.status.busy = false) (w : Word) :
    perform (.write 0 w) s = .next (s.accept w) := by
  rw [perform_write_cmd, writeLoc_idle h]
  rfl

theorem step_of_commitDue {s : State} (h : s.commitDue = true) : step s = complete s := if_pos h

theorem complete_of_legal {s : State} {i : Instr} (h : decode s.pend = .legal i) : complete s = exec i s := by
  simp only [complete, h]

theorem complete_of_illegal {s : State} {why : IllegalWord} (h : decode s.pend = .illegal why) :
    complete s = .next (commit (.fail ⟨.eBadcmd, 0, s.pend.toNat, 0⟩) s) := by
  simp only [complete, h]
  rfl

/-- Settles O4: any word is latched, and a word of illegal shape is one the decoder rejects. -/
theorem illegalWordFailsWithBadcmd : Obligations.IllegalWordFailsWithBadcmd := by
  refine ⟨fun w s hidle => ?_, fun s hdue hshape => ?_, not_illegalShape_iff⟩
  · exact ⟨_, perform_write_cmd_idle hidle w, rfl, rfl, rfl⟩
  · obtain ⟨why, hdec⟩ := decode_of_illegalShape hshape
    refine ⟨_, (step_of_commitDue hdue).trans (complete_of_illegal hdec), ?_, commit_operandsKept _ s,
      commit_bufferKept nofun⟩
    exact commitFail_failsWith _ s (Nat.two_pow_pos 32) s.pend.isLt (Nat.two_pow_pos 32)

/-- Settles O5: the step is the completion, and a legal word completes by `exec`. -/
theorem stepRunsThePendingCommand : Obligations.StepRunsThePendingCommand :=
  fun _ _ hdue hdec => (step_of_commitDue hdue).trans (complete_of_legal hdec)

/-- Settles O41: acceptance while idle, the refused write's hazard while busy. -/
theorem cmdWriteIsAccepted : Obligations.CmdWriteIsAccepted := by
  refine ⟨fun w s hidle => ?_, fun w s hbusy => ?_⟩
  · exact ⟨_, perform_write_cmd_idle hidle w, rfl, rfl, rfl⟩
  · exact ⟨_, perform_write_cmd w s, writeLoc_busy hbusy .cmd w⟩

end Sys2Proof.Machine
end

section
/-! PROOFS. The tolerance window and the matchers (40_match_primitives.md R90 to R96, R101): the bounds as exact rationals,
the window in each form the rules give it, and the matchers at small nominals. -/

namespace Sys2Proof.Machine

/-! The two bounds, exact for every integer. -/

/-- R90: `ticks_low` is the quotient itself, with no truncation. -/
theorem ticksLow100_div (n : Int) : (ticksLow100 n : ℚ) / 100 = 3 * n / 4 := by
  simp only [ticksLow100, Config.tol]
  push_cast
  ring

/-- R91: the `+ 1` is added to the exact quotient. -/
theorem ticksHigh100_div (n : Int) : (ticksHigh100 n : ℚ) / 100 = 5 * n / 4 + 1 := by
  simp only [ticksHigh100, Config.tol]
  push_cast
  ring

/-! The window. -/

/-- R92 as the circuit compares it: both bounds scaled by 100. -/
theorem inWindow_iff_scaled (obs : Nat) (n : Int) :
    inWindow obs n = true ↔ ticksLow100 n ≤ 100 * (obs : Int) ∧ 100 * (obs : Int) ≤ ticksHigh100 n := by
  simp only [inWindow, Bool.and_eq_true, decide_eq_true_iff]

/-- R92: the window is the closed interval between the two rational bounds. -/
theorem inWindow_iff_rat (obs : Nat) (n : Int) :
    inWindow obs n = true ↔ (ticksLow100 n : ℚ) / 100 ≤ obs ∧ (obs : ℚ) ≤ (ticksHigh100 n : ℚ) / 100 := by
  rw [inWindow_iff_scaled, div_le_iff₀' (by norm_num), le_div_iff₀' (by norm_num)]
  norm_cast

/-- R96: the integer form of the window, the common factor 25 taken out. -/
theorem inWindow_iff_quarters (obs : Nat) (n : Int) :
    inWindow obs n = true ↔ 4 * (obs : Int) ≥ 3 * n ∧ 4 * (obs : Int) ≤ 5 * n + 4 := by
  rw [inWindow_iff]
  omega

/-- R96: for a nominal that is not negative, from the lower bound rounded up to the upper bound rounded down. -/
theorem inWindow_natCast_iff (obs n : Nat) :
    inWindow obs (n : Int) = true ↔ (3 * n + 3) / 4 ≤ obs ∧ obs ≤ 5 * n / 4 + 1 := by
  rw [inWindow_iff_quarters]
  omega

/-- Settles O8: the bounds are exact, and the scaled comparison divided by 100 is the rational one. -/
theorem windowIsClosedRationalInterval : Obligations.WindowIsClosedRationalInterval := by
  refine ⟨fun n => ⟨?_, ticksLow100_div n, ?_, ticksHigh100_div n⟩, ?_,
    fun obs n => ⟨inWindow_iff_rat obs n, inWindow_iff_scaled obs n⟩⟩
  · rw [ticksLow100]
    push_cast
    rfl
  · rw [ticksHigh100]
    push_cast
    ring
  · rw [ticksLow100_div]
    norm_num

/-- Settles O9: 560 and 543 are instances of the accepted set. -/
theorem windowIntegerForm : Obligations.WindowIntegerForm :=
  ⟨inWindow_iff_quarters, inWindow_natCast_iff, fun obs => inWindow_natCast_iff obs 560, by decide⟩

/-! The matchers. -/

/-- Settles O10: the matchers are the window at the corrected nominal, by definition. -/
theorem matchersShiftTheNominal : Obligations.MatchersShiftTheNominal :=
  fun obs nominal => ⟨matchMark_iff obs nominal, matchSpace_iff obs nominal, rfl, rfl⟩

/-- R101 (a): a space's corrected nominal below zero leaves an empty window. -/
theorem matchSpace_of_lt_offset {nominal : Nat} (h : nominal < 20) (obs : Nat) : matchSpace obs nominal = false := by
  rw [Bool.eq_false_iff, Ne, matchSpace_iff]
  omega

/-- R101 (c): where a nominal is inside its own mark window. -/
theorem matchMark_self_iff (n : Nat) : matchMark n n = true ↔ 60 ≤ n := by
  rw [matchMark_iff]
  omega

/-- R101 (c): where a nominal is inside its own space window. -/
theorem matchSpace_self_iff (n : Nat) : matchSpace n n = true ↔ 96 ≤ n := by
  rw [matchSpace_iff]
  omega

/-- Settles O11: each corner is the matcher's linear form at its nominal. -/
theorem matcherCornerCases : Obligations.MatcherCornerCases := by
  refine ⟨fun obs nominal h => matchSpace_of_lt_offset h obs, fun obs => ?_, fun obs => ?_, fun obs => ?_,
    matchMark_self_iff, matchSpace_self_iff⟩
  · rw [matchSpace_iff]
    omega
  · rw [matchSpace_iff]
    omega
  · rw [matchMark_iff]
    omega

end Sys2Proof.Machine
end

section
/-! PROOFS. The four commands of the window and the matchers (40_match_primitives.md R97 to R100): each succeeds in every
state with one scalar and keeps the rest of the block (R102). -/

namespace Sys2Proof.Machine

/-- A command that names nothing but a 64-bit scalar: it shows that scalar with every other result 0, and what it keeps. -/
theorem exec_succeeds_scalar {i : Instr} {s : State} {v : Nat} (h : outcome i s = .ok { res := v }) (hv : v < 2 ^ 64) :
    ∃ t, exec i s = .next t ∧ Succeeds s t v false 0 0 0 ∧ OperandsKept s t ∧ BufferKept s t :=
  exec_succeeds h rfl hv (Nat.two_pow_pos 32) (Nat.two_pow_pos 32) (Nat.two_pow_pos 32)

/-! The two scaled bounds. -/

theorem outcome_tlo (s : State) : outcome .tlo s = .ok { res := s.opb.toNat * 75 } := rfl

theorem outcome_thi (s : State) : outcome .thi s = .ok { res := s.opb.toNat * 125 + 100 } := rfl

/-- Settles O12: the largest `OPB` still gives a 64-bit scalar. -/
theorem tloScalesTheLowerBound : Obligations.TloScalesTheLowerBound :=
  ⟨rfl, fun s => exec_succeeds_scalar (outcome_tlo s) (by have := s.opb.isLt; omega)⟩

/-- Settles O13: the largest `OPB` still gives a 64-bit scalar. -/
theorem thiScalesTheUpperBound : Obligations.ThiScalesTheUpperBound :=
  ⟨rfl, fun s => exec_succeeds_scalar (outcome_thi s) (by have := s.opb.isLt; omega)⟩

/-! The two matchers. -/

theorem outcome_mmark (s : State) : outcome .mmark s = .ok { res := (matchMark s.opa.toNat s.opb.toNat).toNat } := rfl

theorem outcome_mspace (s : State) : outcome .mspace s = .ok { res := (matchSpace s.opa.toNat s.opb.toNat).toNat } :=
  rfl

/-- R102: a command that answers a matcher's flag succeeds with 1 or 0 as its condition `p` holds or not. -/
theorem exec_succeeds_flag {i : Instr} {s : State} {b : Bool} {p : Prop} [Decidable p]
    (h : outcome i s = .ok { res := b.toNat }) (hb : b = true ↔ p) :
    ∃ t, exec i s = .next t ∧ Succeeds s t (if p then 1 else 0) false 0 0 0 ∧ OperandsKept s t ∧ BufferKept s t := by
  have hflag : b.toNat = if p then 1 else 0 := by
    rw [Bool.toNat, Bool.cond_eq_ite]
    exact if_congr hb rfl rfl
  rw [← hflag]
  exact exec_succeeds_scalar h (b.toNat_lt.trans (by decide))

/-- A mark's corrected nominal is never negative, so its window is one of natural numbers. -/
theorem matchMark_iff_nat (obs nominal : Nat) :
    matchMark obs nominal = true ↔ 3 * (nominal + 20) ≤ 4 * obs ∧ 4 * obs ≤ 5 * (nominal + 20) + 4 := by
  rw [matchMark_iff]
  omega

/-- Settles O14: the answer is the mark matcher's flag. -/
theorem mmarkAnswersOneOrZero : Obligations.MmarkAnswersOneOrZero :=
  ⟨rfl, fun s => exec_succeeds_flag (outcome_mmark s) (matchMark_iff_nat _ _)⟩

/-- Settles O15: the answer is the space matcher's flag, and below the offset no space matches (R101 (a)). -/
theorem mspaceAnswersOneOrZero : Obligations.MspaceAnswersOneOrZero := by
  refine ⟨rfl, fun s => ?_⟩
  obtain ⟨t, hexec, hsucc, hops, hbuf⟩ := exec_succeeds_flag (outcome_mspace s) (matchSpace_iff _ _)
  refine ⟨t, hexec, hsucc, fun hlt => ?_, hops, hbuf⟩
  have hno := matchSpace_of_lt_offset hlt s.opa.toNat
  rw [Bool.eq_false_iff, Ne, matchSpace_iff] at hno
  rw [hsucc.res, if_neg hno]

end Sys2Proof.Machine
end

section
/-! PROOFS. The bit count of `DECPD` (41_pulse_distance_decode.md R116): out of range it is refused before the buffer is
looked at, and a count of 0 decodes to 0. -/

namespace Sys2Proof.Machine

/-- The refusal of a bit count names the bound it breaks: the value's width first, then the byte grouping. -/
theorem nbitsCheck_eq_some {o : BitOrder} {n : Nat} (h : 32 < n ∨ o = .lsb ∧ n % 8 ≠ 0) :
    nbitsCheck o n = some ⟨.eNbits, 0, n, if 32 < n then 32 else 8⟩ := by
  unfold nbitsCheck Config.valueWidth
  by_cases hwide : 32 < n
  · rw [if_pos hwide, if_pos hwide]
  · rw [if_neg hwide, if_neg hwide, if_pos (h.resolve_left hwide)]

/-- Behind the checks of the bit count and of `LEN`, `DECPD` is its decoder (30_encoding.md R80). -/
theorem outcome_decpd_of_checks {o : BitOrder} {n : Nat} {s : State} (hn : n ≤ 32) (ho : o = .lsb → n % 8 = 0)
    (hlen : s.len.toNat ≤ 256) :
    outcome (.decpd o n) s =
      valueOutcome (decodePd s.dur s.len.toNat n o s.bitm.toNat s.ones.toNat s.zeros.toNat) := by
  rw [outcome, decpdOutcome, (nbitsCheck_eq_none o n).2 ⟨hn, ho⟩, (lenCheck_eq_none s).2 hlen]
  rfl

/-- No pair is needed for no bits, and none is read. -/
theorem decodePd_zero (elem : Nat → Nat) (len : Nat) (o : BitOrder) (bm os zs : Nat) :
    decodePd elem len 0 o bm os zs = .ok 0 :=
  if_neg (Nat.not_lt_zero _)

/-- Settles O16: the bit count's check comes first, and a count of 0 passes every check and runs the loop no times. -/
theorem decpdBitCountRule : Obligations.DecpdBitCountRule := by
  refine ⟨fun o n s hn h => ?_, fun o s hlen => ?_⟩
  · refine exec_fails (outcome_of_nbitsCheck (nbitsCheck_eq_some h) s _ List.mem_cons_self) (Nat.two_pow_pos 32)
      (hn.trans (by decide)) ?_
    dsimp only
    split_ifs <;> decide
  · refine exec_succeeds_scalar ?_ (Nat.two_pow_pos 64)
    rw [outcome_decpd_of_checks (Nat.zero_le _) (fun _ => rfl) hlen, decodePd_zero]
    rfl

end Sys2Proof.Machine
end

section
/-! PROOFS. The encoders' checks (42_pulse_distance_encode.md R134; 30_encoding.md R80): the bit count, then the value's
range; a refused encode writes nothing. -/

namespace Sys2Proof.Machine

/-- A value too wide is named with the bit count it does not fit. -/
theorem rangeCheck_eq_some {s : State} {n : Nat} (h : 2 ^ n ≤ s.encval.toNat) :
    rangeCheck s n = some ⟨.eEncRange, 0, s.encval.toNat, n⟩ :=
  if_pos h

/-- The value's range settles each encoder's outcome behind the bit count's own check. -/
theorem encoder_outcome_of_rangeCheck {o : BitOrder} {n : Nat} {s : State} {f : Failure}
    (hnbits : nbitsCheck o n = none) (hrange : rangeCheck s n = some f) :
    ∀ i ∈ [Instr.encpd o n, .encfr o n], outcome i s = .fail f := by
  simp only [List.forall_mem_cons, outcome]
  refine ⟨?_, ?_, nofun⟩
  · rw [encpdOutcome, hnbits]
    exact unlessFail_of_eq_some hrange _
  · rw [encfrOutcome, hnbits]
    exact unlessFail_of_eq_some hrange _

/-- The commit of a failed outcome shows its code and context. -/
theorem commit_failsWith {o : CmdOutcome} {f : Failure} (h : o = .fail f) (s : State) (hi : f.idx < 2 ^ 32)
    (ho : f.obs < 2 ^ 32) (he : f.exp < 2 ^ 32) : FailsWith s (commit o s) f.code f.idx f.obs f.exp := by
  rw [h]
  exact commitFail_failsWith f s hi ho he

/-- A commit that does not set `OK` leaves `LEN` and `BUF` (60_exceptions.md R193). -/
theorem commit_bufferKept_of_not_ok {o : CmdOutcome} {s : State} (h : (commit o s).status.ok = false) :
    BufferKept s (commit o s) := by
  refine commit_bufferKept fun r hr => ?_
  rw [hr] at h
  exact absurd h (by simp)

/-- Settles O18: the first check that fails is what either encoder commits, and a failure keeps the buffer. -/
theorem encoderMisuseIsRefused : Obligations.EncoderMisuseIsRefused := by
  intro o n s hn i hi
  have hnbits {f : Failure} (hf : nbitsCheck o n = some f) : outcome i s = .fail f :=
    outcome_of_nbitsCheck hf s i (List.mem_cons_of_mem _ hi)
  have hn32 : n < 2 ^ 32 := hn.trans (by decide)
  refine ⟨commit (outcome i s) s, exec_eq i s, commit_operandsKept _ s, commit_bufferKept_of_not_ok,
    fun hwide => ?_, fun hle hlsb hmod => ?_, fun hle hord hv => ?_⟩
  · have hf := nbitsCheck_eq_some (o := o) (.inl hwide)
    rw [if_pos hwide] at hf
    exact commit_failsWith (hnbits hf) s (Nat.two_pow_pos 32) hn32 (by norm_num)
  · have hf := nbitsCheck_eq_some (.inr ⟨hlsb, hmod⟩)
    rw [if_neg hle.not_gt] at hf
    exact commit_failsWith (hnbits hf) s (Nat.two_pow_pos 32) hn32 (by norm_num)
  · have hf := encoder_outcome_of_rangeCheck ((nbitsCheck_eq_none o n).2 ⟨hle, hord⟩) (rangeCheck_eq_some hv) i hi
    exact commit_failsWith hf s (Nat.two_pow_pos 32) s.encval.isLt hn32

end Sys2Proof.Machine
end

section
/-! PROOFS. What the encoders write (42_pulse_distance_encode.md R130 to R136): behind their checks both commit a sequence of
elements to the front of the buffer, and the sequence is read element by element. -/

namespace Sys2Proof.Machine

/-- A success that names nothing but data: zero results, the data at the front of the buffer, every later element kept. -/
theorem exec_succeeds_data {i : Instr} {s : State} {l : List Word} (h : outcome i s = .ok { data := some l })
    (hl : l.length ≤ Config.bufCap) :
    ∃ t, exec i s = .next t ∧ Succeeds s t 0 false 0 0 0 ∧ OperandsKept s t ∧ t.len.toNat = l.length ∧
      ∀ k, t.elem k = l[k]?.getD (s.elem k) := by
  refine ⟨commit (outcome i s) s, exec_eq i s, ?_, commit_operandsKept _ s, ?_⟩
  · rw [h]
    exact commitOk_succeeds _ s (Nat.two_pow_pos 64) (Nat.two_pow_pos 32) (Nat.two_pow_pos 32) (Nat.two_pow_pos 32)
  · rw [h]
    refine ⟨commitOk_len_of_data rfl hl s, fun k => ?_⟩
    rw [commit_ok, commitOk_elem_of_data rfl]
    split_ifs with hk
    · rw [List.getElem?_eq_getElem hk, Option.getD_some]
    · rw [List.getElem?_eq_none (not_lt.1 hk), Option.getD_none]

/-- R131: pair `i` carries the bit of the value at the pair's weight. -/
theorem encodeBit_eq (v n : Nat) (o : BitOrder) (i : Nat) : encodeBit v n o i = v / 2 ^ bitWeight o n i % 2 := by
  cases o <;> rfl

/-- Behind its checks `ENCPD` names the pairs as its data. -/
theorem outcome_encpd_of_checks {o : BitOrder} {n : Nat} {s : State} (hn : n ≤ 32) (ho : o = .lsb → n % 8 = 0)
    (hv : s.encval.toNat < 2 ^ n) :
    outcome (.encpd o n) s = .ok { data := some (encodePd s.encval.toNat n o s.bitm s.ones s.zeros) } := by
  rw [outcome, encpdOutcome, (nbitsCheck_eq_none o n).2 ⟨hn, ho⟩, (rangeCheck_eq_none s n).2 hv]
  rfl

/-- Behind its checks `ENCFR` names the frame as its data. -/
theorem outcome_encfr_of_checks {o : BitOrder} {n : Nat} {s : State} (hn : n ≤ 32) (ho : o = .lsb → n % 8 = 0)
    (hv : s.encval.toNat < 2 ^ n) :
    outcome (.encfr o n) s =
      .ok { data := some (encodeFrame s.encval.toNat n o s.hdrm s.hdrs s.bitm s.ones s.zeros s.gap) } := by
  rw [outcome, encfrOutcome, (nbitsCheck_eq_none o n).2 ⟨hn, ho⟩, (rangeCheck_eq_none s n).2 hv]
  rfl

/-- Settles O22: the committed data are the pairs, read two elements at a time. -/
theorem encpdWritesThePairs : Obligations.EncpdWritesThePairs := by
  intro o n s hn ho hv
  have hcap : 2 * n ≤ Config.bufCap := by unfold Config.bufCap; omega
  obtain ⟨t, hexec, hsucc, hops, hlen, helem⟩ :=
    exec_succeeds_data (outcome_encpd_of_checks hn ho hv) ((encodePd_length ..).trans_le hcap)
  rw [encodePd_length] at hlen
  refine ⟨t, hexec, hsucc, hops, hlen, fun i hi => ?_, fun k hk => ?_⟩
  · obtain ⟨hmark, hspace⟩ := encodePd_getElem? s.encval.toNat n o s.bitm s.ones s.zeros hi
    rw [helem, helem, hmark, hspace, encodeBit_eq]
    exact ⟨rfl, rfl⟩
  · rw [helem, List.getElem?_eq_none ((encodePd_length ..).trans_le hk)]
    rfl

/-- R133: the header stands before the pairs, the stop mark and the gap behind them. -/
theorem encodeFrame_getElem?_ends (v n : Nat) (o : BitOrder) (hm hs bm os zs g : Word) :
    (encodeFrame v n o hm hs bm os zs g)[0]? = some hm ∧ (encodeFrame v n o hm hs bm os zs g)[1]? = some hs ∧
    (encodeFrame v n o hm hs bm os zs g)[2 + 2 * n]? = some bm ∧
    (encodeFrame v n o hm hs bm os zs g)[3 + 2 * n]? = some g := by
  have hfront : ([hm, hs] ++ encodePd v n o bm os zs).length = 2 + 2 * n := by
    simp only [List.length_append, List.length_cons, List.length_nil, encodePd_length]
  refine ⟨rfl, rfl, ?_, ?_⟩ <;> rw [encodeFrame, List.getElem?_append_right (by omega), hfront]
  · rw [Nat.sub_self]
    rfl
  · rw [show 3 + 2 * n - (2 + 2 * n) = 1 by omega]
    rfl

/-- R133: pair `i` of the frame stands two elements later than in the encoder's own output. -/
theorem encodeFrame_getElem?_pair (v n : Nat) (o : BitOrder) (hm hs bm os zs g : Word) {i : Nat} (hi : i < n) :
    (encodeFrame v n o hm hs bm os zs g)[2 + 2 * i]? = some bm ∧
    (encodeFrame v n o hm hs bm os zs g)[3 + 2 * i]? = some (if encodeBit v n o i = 1 then os else zs) := by
  obtain ⟨hmark, hspace⟩ := encodePd_getElem? v n o bm os zs hi
  rw [show 3 + 2 * i = 2 + (2 * i + 1) by omega]
  exact ⟨(encodeFrame_getElem? v n o hm hs bm os zs g (by omega)).trans hmark,
    (encodeFrame_getElem? v n o hm hs bm os zs g (by omega)).trans hspace⟩

/-- Settles O23: the committed data are the frame, read at its ends and through its pairs. -/
theorem encfrWritesTheFrame : Obligations.EncfrWritesTheFrame := by
  intro o n s hn ho hv
  have hcap : 2 * n + 4 ≤ Config.bufCap := by unfold Config.bufCap; omega
  obtain ⟨t, hexec, hsucc, hops, hlen, helem⟩ :=
    exec_succeeds_data (outcome_encfr_of_checks hn ho hv) ((encodeFrame_length ..).trans_le hcap)
  rw [encodeFrame_length] at hlen
  obtain ⟨hhdrm, hhdrs, hstop, hgap⟩ :=
    encodeFrame_getElem?_ends s.encval.toNat n o s.hdrm s.hdrs s.bitm s.ones s.zeros s.gap
  have hat {k : Nat} {w : Word}
      (hk : (encodeFrame s.encval.toNat n o s.hdrm s.hdrs s.bitm s.ones s.zeros s.gap)[k]? = some w) :
      t.elem k = w := by
    rw [helem, hk, Option.getD_some]
  refine ⟨t, hexec, hsucc, hops, hlen, hat hhdrm, hat hhdrs, fun i hi => ?_, hat hstop, hat hgap, fun k hk => ?_⟩
  · obtain ⟨hmark, hspace⟩ :=
      encodeFrame_getElem?_pair s.encval.toNat n o s.hdrm s.hdrs s.bitm s.ones s.zeros s.gap hi
    rw [encodeBit_eq] at hspace
    exact ⟨hat hmark, hat hspace⟩
  · rw [helem, List.getElem?_eq_none ((encodeFrame_length ..).trans_le hk)]
    rfl

end Sys2Proof.Machine
end

section
/-! PROOFS. The round trips (42_pulse_distance_encode.md R138): the bits an encoder selects, accumulated by the decoder's
loop, are the value again, for both orders. -/

namespace Sys2Proof.Machine

/-! The bits of a value, accumulated. -/

/-- `MSB`: with `count` bits to come, the accumulator holds the value without its lowest `count` bits. -/
theorem accumulateAll_msb_bits (v count : Nat) : ∀ i,
    accumulateAll .msb (encodeBit v (i + count) .msb) count i (v / 2 ^ count) = v := by
  induction count with
  | zero => intro i; exact Nat.div_one v
  | succ count ih =>
    intro i
    have hacc : accumulate .msb i (v / 2 ^ (count + 1)) (encodeBit v (i + (count + 1)) .msb i) = v / 2 ^ count := by
      rw [accumulate, encodeBit_eq, bitWeight, show i + (count + 1) - 1 - i = count by omega, pow_succ,
        ← Nat.div_div_eq_div_mul]
      exact Nat.div_add_mod _ 2
    rw [accumulateAll, hacc, show i + (count + 1) = i + 1 + count by omega]
    exact ih (i + 1)

/-- `LSB`: eight pairs from a byte's first on append their byte, the first bit the least significant (R113). -/
theorem accumulateAll_lsb_byte (b : Nat → Nat) (count q acc : Nat) :
    accumulateAll .lsb b (count + 8) (8 * q) acc =
      accumulateAll .lsb b count (8 * (q + 1)) (256 * acc + ∑ r ∈ Finset.range 8, b (8 * q + r) * 2 ^ r) := by
  simp [accumulateAll, accumulate, Finset.sum_range_succ, Nat.add_assoc, Nat.mul_add]

/-- The eight lowest bits of a number are its lowest byte. -/
theorem sum_bits_eq_mod (x : Nat) : ∑ r ∈ Finset.range 8, x / 2 ^ r % 2 * 2 ^ r = x % 256 := by
  simp only [Finset.sum_range_succ, Finset.sum_range_zero]
  omega

/-- `LSB`: with `count` bytes to come, the accumulator holds the value without its lowest `count` bytes. -/
theorem accumulateAll_lsb_bits (v count : Nat) : ∀ q,
    accumulateAll .lsb (encodeBit v (8 * (q + count)) .lsb) (8 * count) (8 * q) (v / 2 ^ (8 * count)) = v := by
  induction count with
  | zero => intro q; exact Nat.div_one v
  | succ count ih =>
    intro q
    have hbit : ∀ r ∈ Finset.range 8, encodeBit v (8 * (q + (count + 1))) .lsb (8 * q + r) * 2 ^ r =
        v / 2 ^ (8 * count) / 2 ^ r % 2 * 2 ^ r := by
      intro r hr
      have hr := Finset.mem_range.1 hr
      have hweight : bitWeight .lsb (8 * (q + (count + 1))) (8 * q + r) = 8 * count + r := by
        simp only [bitWeight]
        omega
      rw [encodeBit_eq, hweight, pow_add, Nat.div_div_eq_div_mul]
    have hbyte : 256 * (v / 2 ^ (8 * (count + 1))) + v / 2 ^ (8 * count) % 256 = v / 2 ^ (8 * count) := by
      rw [Nat.mul_succ, pow_add, ← Nat.div_div_eq_div_mul]
      exact Nat.div_add_mod _ 256
    rw [Nat.mul_succ, accumulateAll_lsb_byte, Finset.sum_congr rfl hbit, sum_bits_eq_mod, ← Nat.mul_succ, hbyte,
      show q + (count + 1) = q + 1 + count by omega]
    exact ih (q + 1)

/-- R131 against R113: the selected bits of a value that fits accumulate to the value. -/
theorem accumulateAll_encodeBit {v n : Nat} {o : BitOrder} (ho : o = .lsb → n % 8 = 0) (hv : v < 2 ^ n) :
    accumulateAll o (encodeBit v n o) n 0 0 = v := by
  cases o with
  | msb =>
    have hbits := accumulateAll_msb_bits v n 0
    rwa [Nat.zero_add, Nat.div_eq_of_lt hv] at hbits
  | lsb =>
    obtain ⟨m, rfl⟩ := Nat.dvd_of_mod_eq_zero (ho rfl)
    have hbits := accumulateAll_lsb_bits v m 0
    rwa [Nat.zero_add, Nat.div_eq_of_lt hv] at hbits

/-! The encoded pairs, decoded. -/

/-- R112: a nominal space is read back as the bit it stands for. -/
theorem spaceBit_nominal {os zs : Nat} (hone : matchSpace os os = true) (hzero : matchSpace zs zs = true)
    (hsep : matchSpace zs os = false) (x : Nat) :
    spaceBit (if x % 2 = 1 then os else zs) os zs = some (x % 2) := by
  unfold spaceBit
  rcases Nat.mod_two_eq_zero_or_one x with hx | hx <;> simp [hx, hone, hzero, hsep]

/-- The decoder's loop over nominal pairs of a value that fits returns the value, wherever the pairs stand. -/
theorem decodePairs_of_encoded {e : Nat → Nat} {base bm os zs v n : Nat} {o : BitOrder}
    (ho : o = .lsb → n % 8 = 0) (hv : v < 2 ^ n) (hmark : matchMark bm bm = true) (hone : matchSpace os os = true)
    (hzero : matchSpace zs zs = true) (hsep : matchSpace zs os = false)
    (hpairs : ∀ i < n, e (base + 2 * i) = bm ∧
      e (base + 2 * i + 1) = if v / 2 ^ bitWeight o n i % 2 = 1 then os else zs) :
    decodePairs e base bm os zs o n 0 0 = .ok v := by
  have hok := decodePairs_ok (e := e) base bm os zs o (encodeBit v n o) n 0 0 fun r _ hr => by
    obtain ⟨hm, hs⟩ := hpairs r (by omega)
    rw [hm, hs, encodeBit_eq]
    exact ⟨hmark, spaceBit_nominal hone hzero hsep _⟩
  rwa [accumulateAll_encodeBit ho hv] at hok

/-- An element as a duration, through the choice of a space. -/
theorem dur_of_elem_ite {t : State} {k : Nat} {p : Prop} [Decidable p] {a b : Word}
    (h : t.elem k = if p then a else b) : t.dur k = if p then a.toNat else b.toNat :=
  (congrArg BitVec.toNat h).trans (apply_ite ..)

/-- Settles O24: the pairs written are nominal, so the loop reads the value back. -/
theorem decpdInvertsEncpd : Obligations.DecpdInvertsEncpd := by
  refine ⟨fun o n s hn ho hv hmark hone hzero hsep => ?_, by decide⟩
  obtain ⟨t, hexec, -, hops, hlen, hpairs, -⟩ := encpdWritesThePairs o n s hn ho hv
  have hdecode : outcome (.decpd o n) t = .ok { res := s.encval.toNat } := by
    rw [outcome_decpd_of_checks hn ho (by omega), hops.bitm, hops.ones, hops.zeros, decodePd, hlen,
      if_neg (by omega), decodePairs_of_encoded ho hv hmark hone hzero hsep fun i hi => ?_]
    · rfl
    · obtain ⟨hm, hs⟩ := hpairs i hi
      rw [Nat.zero_add]
      exact ⟨congrArg BitVec.toNat hm, dur_of_elem_ite hs⟩
  obtain ⟨u, hexec', hsucc, -, -⟩ := exec_succeeds_scalar hdecode (s.encval.isLt.trans (by decide))
  exact ⟨t, u, hexec, hexec', hsucc⟩

/-- A full frame whose header, data and stop mark are all good decodes to its data (44_nec_frame_decode.md R171 to R176). -/
theorem decodeNec_full {e : Nat → Nat} {v : Nat} (hhdrm : matchMark (e 0) Config.necHdrMark = true)
    (hhdrs : matchSpace (e 1) Config.necHdrSpace = true)
    (hdata : decodePairs e 2 Config.necBitMark Config.necOneSpace Config.necZeroSpace Config.necOrder Config.necBits 0 0
      = .ok v)
    (hstop : matchMark (e 66) Config.necBitMark = true) : decodeNec e 68 = .ok { res := v } := by
  have hlen : necLengthCheck 68 = none := if_pos (.inl rfl)
  have hnec : necData e 68 = .ok v := (if_pos rfl).trans hdata
  have hspace : spaceCheck e .eNecHdrs 1 (necHeaderSpace 68) = none := if_pos hhdrs
  have hhead : markCheck e .eNecHdrm 0 Config.necHdrMark = none := if_pos hhdrm
  have htail : markCheck e .eNecStop (68 - 2) Config.necBitMark = none := if_pos hstop
  rw [decodeNec, hlen, hhead, hspace, hnec, necStop, htail]
  rfl

/-- Settles O25: at the reset parameters the frame written is the nominal NEC frame. -/
theorem decnecInvertsEncfr : Obligations.DecnecInvertsEncfr := by
  intro s hhdrm hhdrs hbitm hones hzeros
  obtain ⟨t, hexec, -, -, hlen, h0, h1, hpairs, hstop, -, -⟩ :=
    encfrWritesTheFrame .lsb 32 s (le_refl 32) (fun _ => rfl) s.encval.isLt
  rw [hhdrm] at h0
  rw [hhdrs] at h1
  rw [hbitm] at hstop
  rw [hbitm, hones, hzeros] at hpairs
  have hlen : t.len.toNat = 68 := hlen
  have hdata : decodePairs t.dur 2 Config.necBitMark Config.necOneSpace Config.necZeroSpace Config.necOrder
      Config.necBits 0 0 = .ok s.encval.toNat := by
    refine decodePairs_of_encoded (fun _ => rfl) s.encval.isLt (by decide) (by decide) (by decide) (by decide)
      fun i hi => ?_
    obtain ⟨hm, hs⟩ := hpairs i hi
    rw [show 2 + 2 * i + 1 = 3 + 2 * i by omega]
    exact ⟨congrArg BitVec.toNat hm, dur_of_elem_ite hs⟩
  have hdecode : outcome .decnec t = .ok { res := s.encval.toNat } := by
    rw [outcome, decnecOutcome, (lenCheck_eq_none t).2 (by omega), unlessFail_none, hlen]
    refine decodeNec_full ?_ ?_ hdata ?_
    · rw [State.dur, h0]
      decide
    · rw [State.dur, h1]
      decide
    · rw [State.dur, hstop]
      decide
  obtain ⟨u, hexec', hsucc, -, -⟩ := exec_succeeds_scalar hdecode (s.encval.isLt.trans (by decide))
  exact ⟨t, u, hexec, hexec', hsucc⟩

end Sys2Proof.Machine
end

section
/-! PROOFS. The pulse-width decoder (43_pulse_width_decode.md R150 to R157): the pairs that are kept, the count that
passes, and the three fields behind the passed checks. -/

namespace Sys2Proof.Machine

/-! The pairs kept and the leader. -/

theorem pairExceeds_iff (e : Nat → Nat) (r limit : Nat) :
    pairExceeds e r limit = true ↔ limit < e (2 * r) ∨ limit < e (2 * r + 1) := by
  simp only [pairExceeds, Bool.or_eq_true, decide_eq_true_iff]

/-- R152: the pair at which the kept ones end is the first trailer, unless every pair is kept. -/
theorem pwKept_firstTrailer (e : Nat → Nat) (pairs : Nat) :
    (∀ r < pwKept e pairs, ¬ pairExceeds e r Config.pwTrailer = true) ∧
    (pwKept e pairs < pairs → pairExceeds e (pwKept e pairs) Config.pwTrailer = true) := by
  unfold pwKept
  cases hfind : (List.range pairs).find? fun r => pairExceeds e r Config.pwTrailer with
  | none =>
    rw [List.find?_range_eq_none] at hfind
    exact ⟨fun r hr => by simpa using hfind r hr, fun h => absurd h (lt_irrefl pairs)⟩
  | some t =>
    obtain ⟨htrailer, -, hbefore⟩ := List.find?_range_eq_some.1 hfind
    exact ⟨fun r hr => by simpa using hbefore r hr, fun _ => htrailer⟩

/-- R153: a leader is dropped only where it is kept. -/
theorem pwBase_eq_one_iff (e : Nat → Nat) (kept : Nat) :
    pwBase e kept = 1 ↔ 1 ≤ kept ∧ pairExceeds e 0 Config.pwLeader = true := by
  unfold pwBase
  split_ifs with h <;> simp [h]

theorem pwBase_eq_one_or_zero (e : Nat → Nat) (kept : Nat) : pwBase e kept = 1 ∨ pwBase e kept = 0 :=
  ite_eq_or_eq _ _ _

/-- Settles O26: the search stops at the first trailer, and each test of a pair is the rule's own. -/
theorem trailerCutAndLeaderDrop : Obligations.TrailerCutAndLeaderDrop := by
  intro e pairs
  obtain ⟨hbefore, htrailer⟩ := pwKept_firstTrailer e pairs
  refine ⟨pwKept_le e pairs, fun r hr => ?_, fun hlt => (pairExceeds_iff _ _ _).1 (htrailer hlt),
    fun kept => ⟨?_, pwBase_eq_one_or_zero e kept⟩⟩
  · have hkept := hbefore r hr
    rwa [pairExceeds_iff, not_or, not_lt, not_lt] at hkept
  · rw [pwBase_eq_one_iff, pairExceeds_iff]
    rfl

/-! The count of the pairs left. -/

/-- R154 (i): too short is tested first. -/
theorem pwCountCheck_of_lt {n : Nat} (h : n < 12) : pwCountCheck n = some ⟨.ePwShort, 0, n, 12⟩ :=
  if_pos h

/-- R154 (ii): enough pairs, but corrupted. -/
theorem pwCountCheck_of_mod_ne {n : Nat} (h : 12 ≤ n) (hmod : n % 8 ≠ 0) :
    pwCountCheck n = some ⟨.ePwCorrupt, 0, n, 8⟩ :=
  (if_neg h.not_gt).trans (if_pos hmod)

/-- R154: the counts that pass. -/
theorem pwCountCheck_eq_none_iff (n : Nat) : pwCountCheck n = none ↔ n % 8 = 0 ∧ 24 ≤ n := by
  unfold pwCountCheck Config.pwMinPairs Config.pwFieldPairs
  split_ifs with hmin hmod hfields
  · simp only [false_iff]; omega
  · simp only [false_iff]; omega
  · simp only [false_iff]; omega
  · simp only [true_iff]; omega

/-- Behind the check of `LEN`, `DECPW` is its decoder (30_encoding.md R80). -/
theorem outcome_decpw_of_len {s : State} (hlen : s.len.toNat ≤ 256) :
    outcome .decpw s = decodePw s.dur s.len.toNat := by
  rw [outcome, decpwOutcome, (lenCheck_eq_none s).2 hlen, unlessFail_none]

/-- The count that fails its check is what `DECPW` reports. -/
theorem exec_decpw_fails_of_count {s : State} {n expected : Nat} {code : ErrCode} (hlen : s.len.toNat ≤ 256)
    (hn : n = pwKept s.dur (s.len.toNat / 2) - pwBase s.dur (pwKept s.dur (s.len.toNat / 2)))
    (hcount : pwCountCheck n = some ⟨code, 0, n, expected⟩) (hexp : expected < 2 ^ 32) :
    ∃ t, exec .decpw s = .next t ∧ FailsWith s t code 0 n expected ∧ OperandsKept s t ∧ BufferKept s t := by
  have hfail : outcome .decpw s = .fail ⟨code, 0, n, expected⟩ := by
    rw [outcome_decpw_of_len hlen]
    exact unlessFail_of_eq_some (hn ▸ hcount) _
  have hkept := pwKept_le s.dur (s.len.toNat / 2)
  exact exec_fails hfail (Nat.two_pow_pos 32) (show n < 2 ^ 32 by omega) hexp

/-- Settles O27: each failing count names its own check, and 16 is the one multiple of 8 that is left below 24. -/
theorem pulseWidthPairCountRule : Obligations.PulseWidthPairCountRule := by
  refine ⟨fun s hlen n hn => ⟨fun hlt => ?_, fun hle hmod => ?_, ?_⟩, pwCountCheck_eq_none_iff⟩
  · exact exec_decpw_fails_of_count hlen hn (pwCountCheck_of_lt hlt) (by decide)
  · exact exec_decpw_fails_of_count hlen hn (pwCountCheck_of_mod_ne hle hmod) (by decide)
  · rintro rfl
    exact exec_decpw_fails_of_count hlen hn (by decide) (by decide)

/-! The fields. -/

/-- R155: spaces up to 1500 all have a class. -/
theorem pwClassCheck_eq_none_of_le {e : Nat → Nat} {base : Nat} (h : ∀ q < 24, e (2 * (base + q) + 1) ≤ 1500) :
    pwClassCheck e base = none := by
  rw [pwClassCheck, Option.map_eq_none_iff, List.find?_range_eq_none]
  intro q hq
  rw [Bool.not_eq_true', decide_eq_false_iff_not]
  exact (h q hq).not_gt

/-- R156: a field is the sum of its bits at their weights. -/
theorem pwField_eq_sum (e : Nat → Nat) (base first count : Nat) :
    pwField e base first count =
      ∑ q ∈ Finset.range count, (if e (2 * (base + (first + q)) + 1) ≤ 500 then 0 else 1) * 2 ^ q :=
  rfl

/-- With a good pair count and every data space classified, `DECPW` names the three fields. -/
theorem outcome_decpw_of_checks {s : State} {base : Nat} (hlen : s.len.toNat ≤ 256)
    (hbase : base = pwBase s.dur (pwKept s.dur (s.len.toNat / 2)))
    (hcount : pwCountCheck (pwKept s.dur (s.len.toNat / 2) - base) = none) (hclass : pwClassCheck s.dur base = none) :
    outcome .decpw s = .ok { pwcust := pwField s.dur base 0 16, pwpar := pwField s.dur base 16 4,
                             pwdata := pwField s.dur base 20 4 } := by
  subst hbase
  rw [outcome_decpw_of_len hlen, decodePw, hcount, unlessFail_none, hclass, unlessFail_none]

/-- Settles O29: both checks pass, and the committed fields keep the widths of their sums. -/
theorem decpwExtractsTheThreeFields : Obligations.DecpwExtractsTheThreeFields := by
  intro s base n hlen hbase hn hmod hle hspaces
  have hcount := (pwCountCheck_eq_none_iff n).2 ⟨hmod, hle⟩
  have hok := outcome_decpw_of_checks hlen hbase (hn ▸ hcount) (pwClassCheck_eq_none_of_le hspaces)
  have hcust := pwField_lt s.dur base 0 16
  have hpar := pwField_lt s.dur base 16 4
  have hdata := pwField_lt s.dur base 20 4
  obtain ⟨t, hexec, hsucc, hops, hbuf⟩ := exec_succeeds hok rfl (Nat.two_pow_pos 64) (hcust.trans (by decide))
    (hpar.trans (by decide)) (hdata.trans (by decide))
  refine ⟨t, hexec, ?_, hsucc.pwcust.trans_lt hcust, hsucc.pwpar.trans_lt hpar, hsucc.pwdata.trans_lt hdata, hops,
    hbuf⟩
  simpa only [pwField_eq_sum, Nat.zero_add] using hsucc

end Sys2Proof.Machine
end

section
/-! PROOFS. The header of a NEC frame (44_nec_frame_decode.md R172, R173): the mark is judged before the space, and the
space against the nominal of the frame's path. -/

namespace Sys2Proof.Machine

/-! A check on one element fails with the element's index, its duration and the nominal it misses. -/

theorem markCheck_eq_some {e : Nat → Nat} {k nominal : Nat} (h : ¬ matchMark (e k) nominal = true) (code : ErrCode) :
    markCheck e code k nominal = some ⟨code, k, e k, nominal⟩ :=
  if_neg h

theorem spaceCheck_eq_some {e : Nat → Nat} {k nominal : Nat} (h : ¬ matchSpace (e k) nominal = true) (code : ErrCode) :
    spaceCheck e code k nominal = some ⟨code, k, e k, nominal⟩ :=
  if_neg h

theorem markCheck_eq_none {e : Nat → Nat} {k nominal : Nat} (h : matchMark (e k) nominal = true) (code : ErrCode) :
    markCheck e code k nominal = none :=
  if_pos h

/-! The accepted header durations. -/

theorem matchMark_header_iff (obs : Nat) : matchMark obs Config.necHdrMark = true ↔ 6735 ≤ obs ∧ obs ≤ 11226 := by
  rw [matchMark_iff_nat, Config.necHdrMark, Config.necUnit]
  omega

/-- The full path's header space. -/
theorem matchSpace_header_iff (obs : Nat) : matchSpace obs Config.necHdrSpace = true ↔ 3345 ≤ obs ∧ obs ≤ 5576 := by
  rw [matchSpace_iff, Config.necHdrSpace, Config.necUnit]
  omega

/-- The repeat path's header space. -/
theorem matchSpace_repeat_iff (obs : Nat) : matchSpace obs Config.necRptSpace = true ↔ 1673 ≤ obs ∧ obs ≤ 2788 := by
  rw [matchSpace_iff, Config.necRptSpace]
  omega

/-! The two header checks as the command's outcome. -/

/-- Behind the check of `LEN`, `DECNEC` is its decoder (30_encoding.md R80). -/
theorem outcome_decnec_of_len {s : State} (hlen : s.len.toNat ≤ 256) :
    outcome .decnec s = decodeNec s.dur s.len.toNat := by
  rw [outcome, decnecOutcome, (lenCheck_eq_none s).2 hlen, unlessFail_none]

/-- R172: in a frame of either length a bad header mark is the outcome. -/
theorem decodeNec_of_headerMark {e : Nat → Nat} {len : Nat} (hframe : len = 68 ∨ len = 4)
    (hmark : ¬ matchMark (e 0) Config.necHdrMark = true) :
    decodeNec e len = .fail ⟨.eNecHdrm, 0, e 0, Config.necHdrMark⟩ := by
  have hlen : necLengthCheck len = none := if_pos hframe
  rw [decodeNec, hlen, unlessFail_none]
  exact unlessFail_of_eq_some (markCheck_eq_some hmark _) _

/-- R173: behind a good header mark a header space that misses its path's nominal is the outcome. -/
theorem decodeNec_of_headerSpace {e : Nat → Nat} {len nominal : Nat} (hframe : len = 68 ∨ len = 4)
    (hmark : matchMark (e 0) Config.necHdrMark = true) (hnominal : necHeaderSpace len = nominal)
    (hspace : ¬ matchSpace (e 1) nominal = true) :
    decodeNec e len = .fail ⟨.eNecHdrs, 1, e 1, nominal⟩ := by
  have hlen : necLengthCheck len = none := if_pos hframe
  rw [decodeNec, hlen, unlessFail_none, markCheck_eq_none hmark, unlessFail_none, hnominal]
  exact unlessFail_of_eq_some (spaceCheck_eq_some hspace _) _

/-- A decoder failure that names one element against a nominal is what `DECNEC` reports. -/
theorem exec_decnec_fails_of_element {s : State} {code : ErrCode} {k nominal : Nat} (hlen : s.len.toNat ≤ 256)
    (hfail : decodeNec s.dur s.len.toNat = .fail ⟨code, k, s.dur k, nominal⟩) (hk : k < 2 ^ 32)
    (hnominal : nominal < 2 ^ 32) :
    ∃ t, exec .decnec s = .next t ∧ FailsWith s t code k (s.dur k) nominal ∧ OperandsKept s t ∧ BufferKept s t :=
  exec_fails ((outcome_decnec_of_len hlen).trans hfail) hk (s.elem k).isLt hnominal

/-- Settles O31: the mark's check comes first on both paths, and the length picks the space's nominal. -/
theorem necBadHeaderFails : Obligations.NecBadHeaderFails := by
  intro s hframe
  have hcap : s.len.toNat ≤ 256 := by omega
  refine ⟨fun hmark => ?_, fun hmark hfull hspace => ?_, fun hmark hrpt hspace => ?_⟩
  · rw [← matchMark_header_iff] at hmark
    exact exec_decnec_fails_of_element hcap (decodeNec_of_headerMark hframe hmark) (by decide) (by decide)
  · rw [← matchMark_header_iff] at hmark
    rw [← matchSpace_header_iff] at hspace
    have hnominal : necHeaderSpace s.len.toNat = Config.necHdrSpace := if_pos hfull
    exact exec_decnec_fails_of_element hcap (decodeNec_of_headerSpace hframe hmark hnominal hspace) (by decide)
      (by decide)
  · rw [← matchMark_header_iff] at hmark
    rw [← matchSpace_repeat_iff] at hspace
    have hnominal : necHeaderSpace s.len.toNat = Config.necRptSpace := if_neg (by rw [hrpt]; decide)
    exact exec_decnec_fails_of_element hcap (decodeNec_of_headerSpace hframe hmark hnominal hspace) (by decide)
      (by decide)

end Sys2Proof.Machine
end

section
/-! PROOFS. The failures of the two pulse-distance decoders (41_pulse_distance_decode.md R111, R112;
44_nec_frame_decode.md R171, R174): a length that cannot hold the data, and the first bad element of the pairs. -/

namespace Sys2Proof.Machine

/-! The first bad pair of the shared loop, in terms of the matchers. -/

/-- R112: a space is no bit when it is in neither window. -/
theorem spaceBit_eq_none_iff (space os zs : Nat) :
    spaceBit space os zs = none ↔ matchSpace space os = false ∧ matchSpace space zs = false := by
  unfold spaceBit
  cases matchSpace space os <;> cases matchSpace space zs <;> decide

/-- R112: a space in a window is a bit. -/
theorem spaceBit_ne_none {space os zs : Nat} (h : matchSpace space os = true ∨ matchSpace space zs = true) :
    spaceBit space os zs ≠ none := by
  rw [Ne, spaceBit_eq_none_iff]
  rintro ⟨hos, hzs⟩
  simp [hos, hzs] at h

/-- The pairs before `r` of the data from element `base` on are good. -/
def GoodPairsBefore (e : Nat → Nat) (base bm os zs r : Nat) : Prop :=
  ∀ j < r, matchMark (e (base + 2 * j)) bm = true ∧
    (matchSpace (e (base + 2 * j + 1)) os = true ∨ matchSpace (e (base + 2 * j + 1)) zs = true)

section
variable {e : Nat → Nat} {base bm os zs n r : Nat}

/-- R112: behind good pairs a bad mark ends the decode. -/
theorem decodePairs_of_badMark (o : BitOrder) (hr : r < n) (hgood : GoodPairsBefore e base bm os zs r)
    (hmark : matchMark (e (base + 2 * r)) bm = false) :
    decodePairs e base bm os zs o n 0 0 = .error ⟨.ePdMark, base + 2 * r, e (base + 2 * r), bm⟩ :=
  (decodePairs_bad base bm os zs o n 0 0 r (Nat.zero_le r) (by omega)
    fun j _ hj => (hgood j hj).imp_right spaceBit_ne_none).1 hmark

/-- R112: behind good pairs a good mark with a space in neither window ends the decode at the space. -/
theorem decodePairs_of_badSpace (o : BitOrder) (hr : r < n) (hgood : GoodPairsBefore e base bm os zs r)
    (hmark : matchMark (e (base + 2 * r)) bm = true) (hone : matchSpace (e (base + 2 * r + 1)) os = false)
    (hzero : matchSpace (e (base + 2 * r + 1)) zs = false) :
    decodePairs e base bm os zs o n 0 0 = .error ⟨.ePdSpace, base + 2 * r + 1, e (base + 2 * r + 1), os⟩ :=
  (decodePairs_bad base bm os zs o n 0 0 r (Nat.zero_le r) (by omega)
    fun j _ hj => (hgood j hj).imp_right spaceBit_ne_none).2 hmark ((spaceBit_eq_none_iff _ _ _).2 ⟨hone, hzero⟩)

end

/-! `DECPD`. -/

/-- Settles O19: the pair count is compared before any element is read. -/
theorem decpdTooFewPairsFails : Obligations.DecpdTooFewPairsFails := by
  intro o n s hn ho hlen hshort
  have hfail : outcome (.decpd o n) s = .fail ⟨.ePdShort, 0, s.len.toNat / 2, n⟩ := by
    rw [outcome_decpd_of_checks hn ho hlen, decodePd, if_pos hshort]
    rfl
  exact exec_fails hfail (Nat.two_pow_pos 32) (show s.len.toNat / 2 < 2 ^ 32 by omega) (show n < 2 ^ 32 by omega)

/-- With enough pairs, what the loop reports is what `DECPD` reports. -/
theorem outcome_decpd_of_pairs_error {o : BitOrder} {n : Nat} {s : State} {f : Failure} (hn : n ≤ 32)
    (ho : o = .lsb → n % 8 = 0) (hlen : s.len.toNat ≤ 256) (hpairs : n ≤ s.len.toNat / 2)
    (hbad : decodePairs s.dur 0 s.bitm.toNat s.ones.toNat s.zeros.toNat o n 0 0 = .error f) :
    outcome (.decpd o n) s = .fail f := by
  rw [outcome_decpd_of_checks hn ho hlen, decodePd, if_neg hpairs.not_gt, hbad]
  rfl

/-- Settles O20: the data start at element 0, so a pair's index in them is its index in the buffer. -/
theorem decpdFirstBadElementIsReported : Obligations.DecpdFirstBadElementIsReported := by
  intro o n s r hn ho hlen hpairs hr hgood
  have hgood : GoodPairsBefore s.dur 0 s.bitm.toNat s.ones.toNat s.zeros.toNat r := by
    simpa only [GoodPairsBefore, Nat.zero_add] using hgood
  have hk : 2 * r + 1 < 2 ^ 32 := by omega
  refine ⟨fun hmark => ?_, fun hmark hone hzero => ?_⟩
  · rw [← Nat.zero_add (2 * r)] at hmark ⊢
    exact exec_fails (outcome_decpd_of_pairs_error hn ho hlen hpairs (decodePairs_of_badMark o hr hgood hmark))
      (by dsimp only; omega) (s.elem _).isLt s.bitm.isLt
  · rw [← Nat.zero_add (2 * r)] at hmark hone hzero ⊢
    exact exec_fails
      (outcome_decpd_of_pairs_error hn ho hlen hpairs (decodePairs_of_badSpace o hr hgood hmark hone hzero))
      (by dsimp only; omega) (s.elem _).isLt s.ones.isLt

/-! `DECNEC`. -/

/-- Settles O30: the length is judged before any element is read. -/
theorem necWrongLengthFails : Obligations.NecWrongLengthFails := by
  intro s hlen hfull hrpt
  have hcheck : necLengthCheck s.len.toNat = some ⟨.eNecLen, 0, s.len.toNat, 68⟩ := if_neg (not_or.2 ⟨hfull, hrpt⟩)
  have hfail : outcome .decnec s = .fail ⟨.eNecLen, 0, s.len.toNat, 68⟩ :=
    (outcome_decnec_of_len hlen).trans (unlessFail_of_eq_some hcheck _)
  exact exec_fails hfail (Nat.two_pow_pos 32) s.len.isLt (by norm_num)

/-- R174: in a full frame with a good header, what the loop over the data reports is the outcome. -/
theorem decodeNec_of_data_error {e : Nat → Nat} {f : Failure} (hhdrm : matchMark (e 0) Config.necHdrMark = true)
    (hhdrs : matchSpace (e 1) Config.necHdrSpace = true)
    (hbad : decodePairs e 2 Config.necBitMark Config.necOneSpace Config.necZeroSpace Config.necOrder Config.necBits 0 0
      = .error f) :
    decodeNec e 68 = .fail f := by
  have hlen : necLengthCheck 68 = none := if_pos (.inl rfl)
  have hspace : spaceCheck e .eNecHdrs 1 (necHeaderSpace 68) = none := if_pos hhdrs
  have hnec : necData e 68 = .error f := (if_pos rfl).trans hbad
  rw [decodeNec, hlen, markCheck_eq_none hhdrm, hspace, hnec]
  rfl

/-- Settles O32: the data start at element 2, and the loop reports the index in the whole frame. -/
theorem necFirstBadElementIsReported : Obligations.NecFirstBadElementIsReported := by
  intro s r hlen hhdrm hhdrs hr hgood
  have hspaceIndex (j : Nat) : 3 + 2 * j = 2 + 2 * j + 1 := by omega
  simp only [hspaceIndex] at hgood ⊢
  have hcap : s.len.toNat ≤ 256 := by omega
  refine ⟨fun hmark => ?_, fun hmark hone hzero => ?_⟩
  · refine exec_decnec_fails_of_element hcap ?_ (by omega) (by decide)
    rw [hlen]
    exact decodeNec_of_data_error hhdrm hhdrs (decodePairs_of_badMark _ hr hgood hmark)
  · refine exec_decnec_fails_of_element hcap ?_ (by omega) (by decide)
    rw [hlen]
    exact decodeNec_of_data_error hhdrm hhdrs (decodePairs_of_badSpace _ hr hgood hmark hone hzero)

end Sys2Proof.Machine
end

section
/-! PROOFS. The data space without a class (43_pulse_width_decode.md R155): the search of the 24 data spaces stops at the
first above 1500. -/

namespace Sys2Proof.Machine

/-- R155: the first data space above 1500 is the one the class check names. -/
theorem pwClassCheck_eq_some {e : Nat → Nat} {base q : Nat} (hq : q < 24)
    (hbefore : ∀ j < q, e (2 * (base + j) + 1) ≤ 1500) (habove : 1500 < e (2 * (base + q) + 1)) :
    pwClassCheck e base = some ⟨.ePwUnclass, 2 * (base + q) + 1, e (2 * (base + q) + 1), 1500⟩ := by
  refine Option.map_eq_some_iff.2 ⟨q, List.find?_range_eq_some.2 ⟨?_, ?_, fun j hj => ?_⟩, rfl⟩
  · exact decide_eq_true habove
  · exact List.mem_range.2 hq
  · rw [Bool.not_eq_true', decide_eq_false_iff_not]
    exact (hbefore j hj).not_gt

/-- Settles O28: the count passes, so the class check decides; the data spaces all stand among the kept pairs. -/
theorem unclassifiedSpaceFails : Obligations.UnclassifiedSpaceFails := by
  intro s base n q hlen hbase hn hmod hle hq hbefore habove
  have hcount : pwCountCheck n = none := (pwCountCheck_eq_none_iff n).2 ⟨hmod, hle⟩
  have hfail : outcome .decpw s =
      .fail ⟨.ePwUnclass, 2 * (base + q) + 1, s.dur (2 * (base + q) + 1), 1500⟩ := by
    rw [outcome_decpw_of_len hlen, decodePw, ← hbase, ← hn, hcount]
    exact unlessFail_of_eq_some (pwClassCheck_eq_some hq hbefore habove) _
  have hkept := pwKept_le s.dur (s.len.toNat / 2)
  exact exec_fails hfail (show 2 * (base + q) + 1 < 2 ^ 32 by omega) (s.elem _).isLt (by norm_num)

end Sys2Proof.Machine
end

section
/-! PROOFS. Failures in general (60_exceptions.md R191, R196): what a failing command leaves, and the numbers of the codes. -/

namespace Sys2Proof.Machine

/-- Settles O36: `OK = 0` says the commit was a failure's, and that keeps everything the host prepared. -/
theorem failureLeavesThePreparedState : Obligations.FailureLeavesThePreparedState := by
  intro i s t hexec hok
  rw [exec_eq, Host.Outcome.next.injEq] at hexec
  subst hexec
  exact ⟨commit_operandsKept _ s, commit_bufferKept_of_not_ok hok⟩

/-- The codes of 60_exceptions.md R191, in the order of its table. -/
def ErrCode.all : List ErrCode :=
  [.eNone, .ePdShort, .eNecLen, .ePwShort, .ePwCorrupt, .ePdMark, .ePdSpace, .eNecHdrm, .eNecHdrs, .eNecStop,
   .ePwUnclass, .eEncRange, .eNbits, .eBadcmd, .eBadlen]

theorem ErrCode.mem_all (c : ErrCode) : c ∈ ErrCode.all := by
  cases c <;> decide

/-- R191: no two codes share a number. -/
theorem ErrCode.number_injective : Function.Injective ErrCode.number := by
  have hnodup : (ErrCode.all.map ErrCode.number).Nodup := by decide
  exact fun c d h => List.inj_on_of_nodup_map hnodup c.mem_all d.mem_all h

/-- R191, R197: the class stands in bits 7:4, and nothing above them. -/
theorem ErrCode.number_div (c : ErrCode) : c.number / 16 = c.errClass.number ∧ c.number < 256 := by
  cases c <;> decide

/-- Settles O39: the class code by code, distinct numbers, and the table's own rows. -/
theorem codeNumbersCarryTheirClass : Obligations.CodeNumbersCarryTheirClass :=
  ⟨ErrCode.number_div, ErrCode.number_injective, rfl, rfl, rfl, rfl, rfl, rfl, rfl, rfl, rfl, rfl, rfl, rfl, rfl, rfl,
    rfl⟩

end Sys2Proof.Machine
end

section
/-! PROOFS. The decoder on an encoded command (30_encoding.md R71, R78): a command word holds its fields at their
places, so the decoder finds the command that was written. -/

namespace Sys2Proof

/-- R71: the fields of a command word are those it is built from, and no reserved bit is set. -/
theorem fields_commandWord {op ord nbits : Nat} (hop : op < 16) (hord : ord < 2) (hnbits : nbits < 64) :
    opField (commandWord op ord nbits) = op ∧ ordField (commandWord op ord nbits) = ord ∧
    rsv0Field (commandWord op ord nbits) = 0 ∧ nbitsField (commandWord op ord nbits) = nbits ∧
    rsv1Field (commandWord op ord nbits) = 0 := by
  simp only [opField, ordField, rsv0Field, nbitsField, rsv1Field, bits, commandWord, BitVec.toNat_ofNat]
  omega

theorem BitOrder.toField_lt (o : BitOrder) : o.toField < 2 := by
  cases o <;> decide

theorem BitOrder.ofField_toField (o : BitOrder) : BitOrder.ofField o.toField = o := by
  cases o <;> rfl

/-- A command with fields is read back from its word, `ord` and `nbits` at whatever they hold (R72, R73). -/
theorem decode_commandWord {c : BitOrder → Nat → Instr} {op : Nat} (hop : op < 16)
    (hdec : ∀ w, opField w = op → decodeOp w = .legal (c (.ofField (ordField w)) (nbitsField w)))
    (o : BitOrder) {n : Nat} (hn : nbitsFits n = true) : decode (commandWord op o.toField n) = .legal (c o n) := by
  obtain ⟨hopf, hordf, h0, hnf, h1⟩ := fields_commandWord hop o.toField_lt (of_decide_eq_true hn)
  refine decode_eq_legal.2 ⟨h0, h1, ?_⟩
  rw [hdec _ hopf, hordf, hnf, o.ofField_toField]

/-- Settles O1: a command without fields has one word to decode, one with fields is read back field by field. -/
theorem decodeOfEncodeIsTheCommand : Obligations.DecodeOfEncodeIsTheCommand := by
  intro i hwf
  cases i with
  | decpd o n => exact decode_commandWord (by decide) (fun w h => by simp only [decodeOp, h]) o hwf
  | encpd o n => exact decode_commandWord (by decide) (fun w h => by simp only [decodeOp, h]) o hwf
  | encfr o n => exact decode_commandWord (by decide) (fun w h => by simp only [decodeOp, h]) o hwf
  | tlo | thi | mmark | mspace | decpw | decnec => decide

/-- Settles O3: each word is the encoding of its command. -/
theorem writtenOutWordsDecode : Obligations.WrittenOutWordsDecode :=
  ⟨decodeOfEncodeIsTheCommand .tlo rfl, decodeOfEncodeIsTheCommand .thi rfl, decodeOfEncodeIsTheCommand .mmark rfl,
    decodeOfEncodeIsTheCommand .mspace rfl, decodeOfEncodeIsTheCommand (.decpd .lsb 32) rfl,
    decodeOfEncodeIsTheCommand (.encpd .msb 3) rfl, decodeOfEncodeIsTheCommand (.encfr .lsb 32) rfl,
    decodeOfEncodeIsTheCommand .decpw rfl, decodeOfEncodeIsTheCommand .decnec rfl⟩

end Sys2Proof
end

section
/-! PROOFS. The host's port (20_memory.md R53 to R57; 70_reset_and_hazards.md R220 to R226): what each event from
outside does to the block. -/

namespace Sys2Proof.Machine

/-! Reads and writes of a mapped index. -/

theorem perform_read_of_mapped {i : Nat} {l : Loc} (h : Loc.ofIndex i = some l) (s : State) :
    perform (.read i) s = .next { s with rdata := some (s.readLoc l) } := by
  simp only [perform, hostRead, h]

theorem perform_write_of_mapped {i : Nat} {l : Loc} (h : Loc.ofIndex i = some l) (v : Word) (s : State) :
    perform (.write i v) s = .next (s.writeLoc l v) := by
  simp only [perform, hostWrite, h]

theorem perform_write_idle {i : Nat} {l : Loc} (h : Loc.ofIndex i = some l) {s : State} (hidle : s.status.busy = false)
    (v : Word) : perform (.write i v) s = .next (s.writeIdle v l) := by
  rw [perform_write_of_mapped h, writeLoc_idle hidle]

theorem perform_write_busy {i : Nat} {l : Loc} (h : Loc.ofIndex i = some l) {s : State} (hbusy : s.status.busy = true)
    (v : Word) : perform (.write i v) s = .next { s with status := s.status.hazard } := by
  rw [perform_write_of_mapped h, writeLoc_busy hbusy]

theorem perform_read_of_unmapped {i : Nat} (h : Loc.ofIndex i = none) (s : State) :
    perform (.read i) s = .fault (.unmappedIndex i) := by
  simp only [perform, hostRead, h]

theorem perform_write_of_unmapped {i : Nat} (h : Loc.ofIndex i = none) (v : Word) (s : State) :
    perform (.write i v) s = .fault (.unmappedIndex i) := by
  simp only [perform, hostWrite, h]

/-- Settles O46: the map's unmapped indices are R53's ranges. -/
theorem unmappedAccessStops : Obligations.UnmappedAccessStops := by
  intro i v s
  rw [← ofIndex_eq_none]
  refine ⟨fun h => ⟨perform_read_of_unmapped h s, perform_write_of_unmapped h v s⟩, fun h => ?_⟩
  obtain ⟨l, hl⟩ := Option.ne_none_iff_exists'.1 h
  exact ⟨⟨_, perform_read_of_mapped hl s⟩, _, perform_write_of_mapped hl v s⟩

/-- Settles O43: every index of the table names its place, and those from 0x100 on their element. -/
theorem readHasNoSideEffect : Obligations.ReadHasNoSideEffect := by
  refine fun s => ⟨?_, fun k hk => perform_read_of_mapped (ofIndex_window hk) s⟩
  simp only [List.forall_mem_cons]
  exact ⟨rfl, rfl, rfl, rfl, rfl, rfl, rfl, rfl, rfl, rfl, rfl, rfl, rfl, rfl, rfl, rfl, rfl, rfl, rfl, rfl, rfl, rfl,
    rfl, nofun⟩

/-! A write while idle. -/

/-- R55: a read-write place reads what was written to it. -/
theorem readLoc_writeIdle_same {l : Loc} (h : l.readWrite = true) (v : Word) (s : State) :
    (s.writeIdle v l).readLoc l = v := by
  cases l with
  | buf k => exact (elem_store s k k v).trans (if_pos rfl)
  | opa | opb | encval | hdrm | hdrs | bitm | ones | zeros | gap | len => rfl
  | cmd | status | cfg | freq | format | resl | resh | pwcust | pwpar | pwdata | erridx | errobs | errexp => cases h

/-- R55: no other place reads differently after a write to a read-write place. -/
theorem readLoc_writeIdle_of_ne {l l' : Loc} (h : l.readWrite = true) (hne : l' ≠ l) (v : Word) (s : State) :
    (s.writeIdle v l).readLoc l' = s.readLoc l' := by
  cases l with
  | buf k =>
    cases l' with
    | buf j => exact (elem_store s k j v).trans (if_neg fun hj => hne (congrArg Loc.buf hj))
    | _ => rfl
  | opa | opb | encval | hdrm | hdrs | bitm | ones | zeros | gap | len => cases l' <;> trivial
  | cmd | status | cfg | freq | format | resl | resh | pwcust | pwpar | pwdata | erridx | errobs | errexp => cases h

/-- Settles O44: the write is `writeIdle` at its place, which reads back, with every other place as before. -/
theorem writeLandsAtItsPlaceOnly : Obligations.WriteLandsAtItsPlaceOnly := by
  intro i l v s hidle hl hrw
  refine ⟨s.writeIdle v l, perform_write_idle hl hidle v, readLoc_writeIdle_same hrw v s,
    fun l' hne => readLoc_writeIdle_of_ne hrw hne v s, ?_⟩
  cases l with
  | opa | opb | encval | hdrm | hdrs | bitm | ones | zeros | gap | len | buf => rfl
  | cmd | status | cfg | freq | format | resl | resh | pwcust | pwpar | pwdata | erridx | errobs | errexp => cases hrw

/-- R57: bit 4 of the written word is the one that counts. -/
theorem written_eq (f : Status) (v : Word) : f.written v = if v.getLsbD 4 then { f with hzd := false } else f := by
  have hbit : bits v 4 4 = 1 ↔ v.getLsbD 4 = true := by
    rw [BitVec.getLsbD, Nat.testBit_eq_decide_div_mod_eq, decide_eq_true_iff]
    rfl
  exact if_congr hbit rfl rfl

/-- Settles O45: read-only places ignore the write, and `STATUS` looks at bit 4 only. -/
theorem readOnlyWritesAreIgnored : Obligations.ReadOnlyWritesAreIgnored := by
  intro v s hidle
  have ignored {i : Nat} {l : Loc} (hi : Loc.ofIndex i = some l) (hl : s.writeIdle v l = s) :
      perform (.write i v) s = .next s := by
    rw [perform_write_idle hi hidle, hl]
  constructor
  · simp only [List.forall_mem_cons]
    exact ⟨ignored rfl rfl, ignored rfl rfl, ignored rfl rfl, ignored rfl rfl, ignored rfl rfl, ignored rfl rfl,
      ignored rfl rfl, ignored rfl rfl, ignored rfl rfl, ignored rfl rfl, ignored rfl rfl, nofun⟩
  · rw [perform_write_idle (l := .status) rfl hidle, State.writeIdle, written_eq]
    split_ifs <;> rfl

/-- A commit keeps `HZD` (60_exceptions.md R192, R193). -/
theorem commit_hzd (o : CmdOutcome) (s : State) : (commit o s).status.hzd = s.status.hzd := by
  cases o <;> rfl

/-- Settles O42: the refused write sets the flag, and the commit keeps it. -/
theorem writeWhileBusySetsHazard : Obligations.WriteWhileBusySetsHazard := by
  refine ⟨fun i v s hbusy hmapped => ?_, fun s t hstep hdue => ?_⟩
  · obtain ⟨l, hl⟩ := Option.isSome_iff_exists.1 hmapped
    exact ⟨_, perform_write_busy hl hbusy v, rfl⟩
  · obtain ⟨o, hcomplete, -⟩ := complete_eq s
    rw [step_of_commitDue hdue, hcomplete, Host.Outcome.next.injEq] at hstep
    exact hstep ▸ commit_hzd o s

/-! The word at `STATUS`. -/

/-- The digits a `STATUS` word is made of. -/
theorem statusDigits_lt (f : Status) : f.busy.toNat < 2 ∧ f.done.toNat < 2 ∧ f.ok.toNat < 2 ∧ f.rpt.toNat < 2 ∧
    f.hzd.toNat < 2 ∧ f.err.number < 256 :=
  ⟨f.busy.toNat_lt, f.done.toNat_lt, f.ok.toNat_lt, f.rpt.toNat_lt, f.hzd.toNat_lt, f.err.number_div.2⟩

/-- The sum of the digits ends at bit 15, so the word holds all of it. -/
theorem word_toNat (f : Status) : f.word.toNat = f.busy.toNat + 2 * f.done.toNat + 4 * f.ok.toNat + 8 * f.rpt.toNat +
    16 * f.hzd.toNat + 256 * f.err.number := by
  have hdigits := statusDigits_lt f
  rw [Status.word, BitVec.toNat_ofNat]
  omega

/-- A bit of a word is the flag that its digit is. -/
theorem getLsbD_eq_of_digit {w : Word} {k : Nat} {b : Bool} (h : w.toNat / 2 ^ k % 2 = b.toNat) : w.getLsbD k = b := by
  rw [BitVec.getLsbD, Nat.testBit_eq_decide_div_mod_eq, h]
  cases b <;> rfl

/-- Settles O40: each flag is one binary digit of the word, and the code number its second byte. -/
theorem statusWordLayout : Obligations.StatusWordLayout := by
  intro f
  have hdigits := statusDigits_lt f
  have hword := word_toNat f
  refine ⟨getLsbD_eq_of_digit (by omega), getLsbD_eq_of_digit (by omega), getLsbD_eq_of_digit (by omega),
    getLsbD_eq_of_digit (by omega), getLsbD_eq_of_digit (by omega), ?_⟩
  simp only [bits]
  omega

/-! Reset, power-up and `WAIT`. -/

/-- Settles O47: a reset takes every register from the reset state and leaves `BUF`. -/
theorem resetLeavesTheResetValues : Obligations.ResetLeavesTheResetValues :=
  fun s => ⟨s.applyReset, rfl, rfl, rfl, rfl, rfl, rfl, rfl, rfl, rfl, rfl, rfl, rfl, rfl, ⟨rfl, rfl, rfl, rfl, rfl⟩,
    rfl, rfl, rfl, fun _ => rfl⟩

/-- Settles O48: a power-up is a reset with no element of `BUF` written. -/
theorem powerUpRedrawsTheBuffer : Obligations.PowerUpRedrawsTheBuffer :=
  fun s => ⟨s.applyPowerUp, s.applyReset, rfl, rfl, fun _ => rfl, rfl⟩

theorem hostWait_of_done {s : State} (h : s.status.done = true) :
    hostWait s = { s with rdata := some s.status.word } := if_pos h

theorem hostWait_of_not_done {s : State} (h : s.status.done = false) :
    hostWait s = { s with rdata := some s.status.word, inbox := .wait :: s.inbox } := if_neg (by simp [h])

/-- Settles O49: the two polls differ in whether the host polls again. -/
theorem waitPollsUntilDone : Obligations.WaitPollsUntilDone := by
  intro s
  refine ⟨hostWait s, rfl, ?_⟩
  cases hdone : s.status.done with
  | true => rw [hostWait_of_done hdone]; exact ⟨rfl, fun _ => rfl, nofun, rfl⟩
  | false => rw [hostWait_of_not_done hdone]; exact ⟨rfl, nofun, fun _ => rfl, rfl⟩

end Sys2Proof.Machine
end

section
/-! PROOFS. The invariant of the block (10_state.md R31, R37; 60_exceptions.md R192, R193; the storage of log 9): it
holds after reset, and every commit and every event from outside keeps it. -/

namespace Sys2Proof.Machine

/-- Settles O53: every flag, code, result and context is 0 after reset, and nothing is stored. -/
theorem resetMeetsTheInvariant : Obligations.ResetMeetsTheInvariant where
  buf := ⟨List.Pairwise.nil, nofun⟩
  busyNotDone := nofun
  okNoCode := nofun
  doneNoCodeOk := nofun
  rptOk := nofun
  codeNoResults := fun h => absurd rfl h
  okNoContext := nofun
  pwcust := by decide
  pwpar := by decide
  pwdata := by decide

/-! Commits. -/

/-- A failure that names a code commits to no result and no success. -/
theorem commitFail_inv {s : State} (h : s.Inv) {f : Failure} (hcode : f.code ≠ .eNone) : (commitFail f s).Inv where
  buf := h.buf
  busyNotDone := nofun
  okNoCode := nofun
  doneNoCodeOk := fun _ hnone => absurd hnone hcode
  rptOk := nofun
  codeNoResults := fun _ => ⟨rfl, rfl, rfl, rfl, rfl⟩
  okNoContext := nofun
  pwcust := by simp
  pwpar := by simp
  pwdata := by simp

/-- An encoder's data fit the buffer, so its storage stays canonical. -/
theorem writeData_wf {s : State} (h : Memory.wf s.buf) {data : Option (List Word)}
    (hcap : ∀ d, data = some d → d.length ≤ Config.bufCap) : Memory.wf (s.writeData data).buf := by
  cases data with
  | none => exact h
  | some d => exact storeAll_wf d h (by rw [Nat.zero_add]; exact hcap d rfl)

/-- A field below a bound that a register can hold is below it in the register. -/
theorem toNat_ofNat_lt {v b : Nat} (h : v < b) : (BitVec.ofNat 32 v).toNat < b := by
  rw [BitVec.toNat_ofNat]
  exact Nat.mod_lt_of_lt h

/-- What a command's success can name (`outcome_ok_shape`) commits to a state of the invariant. -/
theorem commitOk_inv {s : State} (h : s.Inv) {i : Instr} {r : Results} (hr : outcome i s = .ok r) :
    (commitOk r s).Inv := by
  obtain ⟨hrpt, hcust, hpar, hdata, hcap⟩ := outcome_ok_shape hr
  exact {
    buf := writeData_wf h.buf hcap
    busyNotDone := nofun
    okNoCode := fun _ => rfl
    doneNoCodeOk := fun _ _ => rfl
    rptOk := fun hset => by simp [hrpt hset]
    codeNoResults := fun hcode => absurd rfl hcode
    okNoContext := fun _ => ⟨rfl, rfl, rfl⟩
    pwcust := toNat_ofNat_lt hcust
    pwpar := toNat_ofNat_lt hpar
    pwdata := toNat_ofNat_lt hdata }

/-- Every completion keeps the invariant, of a legal word and of an illegal one. -/
theorem complete_inv {s t : State} (h : s.Inv) (hcomplete : complete s = .next t) : t.Inv := by
  obtain ⟨o, ho, hkind⟩ := complete_eq s
  rw [ho, Host.Outcome.next.injEq] at hcomplete
  subst hcomplete
  rcases hkind with ⟨i, -, rfl⟩ | ⟨w, -, rfl⟩
  · cases hout : outcome i s with
    | ok r => exact commitOk_inv h hout
    | fail f => exact commitFail_inv h (outcome_fail_code hout)
  · exact commitFail_inv h nofun

/-! Events. -/

/-- No clause speaks of `HZD`. -/
theorem inv_of_hzd {s : State} (h : s.Inv) (b : Bool) : State.Inv { s with status := { s.status with hzd := b } } :=
  { h with }

/-- Acceptance clears `DONE` as it sets `BUSY`, and touches no other flag (30_encoding.md R82). -/
theorem accept_inv {s : State} (h : s.Inv) (w : Word) : (s.accept w).Inv :=
  { h with
    busyNotDone := fun _ => rfl
    doneNoCodeOk := nofun }

theorem writeIdle_inv {s : State} (h : s.Inv) {l : Loc} (hl : ∀ k, l = .buf k → k < Config.bufCap) (v : Word) :
    (s.writeIdle v l).Inv := by
  cases l with
  | cmd => exact accept_inv h v
  | status =>
    rw [State.writeIdle, written_eq]
    split_ifs
    · exact inv_of_hzd h false
    · exact h
  | buf k => exact { h with buf := store_wf h.buf (hl k rfl) v }
  | opa | opb | encval | hdrm | hdrs | bitm | ones | zeros | gap | len => exact { h with }
  | cfg | freq | format | resl | resh | pwcust | pwpar | pwdata | erridx | errobs | errexp => exact h

theorem hostWrite_inv {s t : State} {i : Nat} {v : Word} (h : s.Inv) (hwrite : perform (.write i v) s = .next t) :
    t.Inv := by
  cases hi : Loc.ofIndex i with
  | none => rw [perform_write_of_unmapped hi] at hwrite; cases hwrite
  | some l =>
    cases hbusy : s.status.busy with
    | true =>
      rw [perform_write_busy hi hbusy, Host.Outcome.next.injEq] at hwrite
      exact hwrite ▸ inv_of_hzd h true
    | false =>
      rw [perform_write_idle hi hbusy, Host.Outcome.next.injEq] at hwrite
      exact hwrite ▸ writeIdle_inv h (fun k hk => ofIndex_buf (hi.trans (congrArg some hk))) v

theorem hostWait_inv {s : State} (h : s.Inv) : (hostWait s).Inv := by
  cases hdone : s.status.done with
  | true => rw [hostWait_of_done hdone]; exact { h with }
  | false => rw [hostWait_of_not_done hdone]; exact { h with }

theorem perform_inv {s t : State} {e : Event} (h : s.Inv) (hperform : perform e s = .next t) : t.Inv := by
  cases e with
  | read i =>
    cases hi : Loc.ofIndex i with
    | none => rw [perform_read_of_unmapped hi] at hperform; cases hperform
    | some l =>
      rw [perform_read_of_mapped hi, Host.Outcome.next.injEq] at hperform
      exact hperform ▸ { h with }
  | write i v => exact hostWrite_inv h hperform
  | wait => cases hperform; exact hostWait_inv h
  | reset => cases hperform; exact { resetMeetsTheInvariant with buf := h.buf }
  | powerUp => cases hperform; exact { resetMeetsTheInvariant with }

/-- Settles O52: a step is a completion, an event or nothing, and each keeps every clause. -/
theorem stepKeepsTheInvariant : Obligations.StepKeepsTheInvariant := by
  intro s t h hstep
  rcases step_cases s with ⟨-, hcomplete⟩ | ⟨-, -, -, hstay⟩ | ⟨e, rest, -, -, hevent⟩
  · exact complete_inv h (hcomplete ▸ hstep)
  · rw [hstay, Host.Outcome.next.injEq] at hstep
    exact hstep ▸ h
  · have htaken : (s.takeEvent rest).Inv := { h with }
    exact perform_inv htaken (hevent ▸ hstep)

end Sys2Proof.Machine
end

section
/-! PROOFS. The value of good pairs (41_pulse_distance_decode.md R112 to R114): the decoder's accumulation is the sum of
the bits at their weights, for both orders; then `DECPD`, and `DECNEC` on both paths (44_nec_frame_decode.md R175, R176). -/

namespace Sys2Proof.Machine

/-! The accumulated sum. -/

/-- `MSB`: each pair to come doubles what is accumulated. -/
theorem accumulateAll_msb_eq_sum (b : Nat → Nat) (count : Nat) : ∀ i acc,
    accumulateAll .msb b count i acc =
      acc * 2 ^ count + ∑ j ∈ Finset.range count, b (i + j) * 2 ^ bitWeight .msb count j := by
  induction count with
  | zero => intro i acc; simp [accumulateAll]
  | succ count ih =>
    intro i acc
    have htail : ∀ j ∈ Finset.range count,
        b (i + (j + 1)) * 2 ^ bitWeight .msb (count + 1) (j + 1) = b (i + 1 + j) * 2 ^ bitWeight .msb count j := by
      intro j _
      rw [bitWeight, bitWeight, show i + (j + 1) = i + 1 + j by omega,
        show count + 1 - 1 - (j + 1) = count - 1 - j by omega]
    rw [accumulateAll, ih, Finset.sum_range_succ', Finset.sum_congr rfl htail, accumulate, bitWeight]
    simp only [Nat.add_zero, Nat.sub_zero, Nat.add_sub_cancel]
    ring

/-- `LSB`: each byte to come moves what is accumulated up by a byte, and the first byte has the greatest weights. -/
theorem accumulateAll_lsb_eq_sum (b : Nat → Nat) (count : Nat) : ∀ q acc,
    accumulateAll .lsb b (8 * count) (8 * q) acc =
      acc * 2 ^ (8 * count) + ∑ j ∈ Finset.range (8 * count), b (8 * q + j) * 2 ^ bitWeight .lsb (8 * count) j := by
  induction count with
  | zero => intro q acc; simp [accumulateAll]
  | succ count ih =>
    intro q acc
    have hfirst : ∀ r ∈ Finset.range 8, b (8 * q + r) * 2 ^ bitWeight .lsb (8 + 8 * count) r =
        b (8 * q + r) * 2 ^ r * 2 ^ (8 * count) := by
      intro r hr
      have hr := Finset.mem_range.1 hr
      rw [bitWeight, show 8 * ((8 + 8 * count) / 8 - 1 - r / 8) + r % 8 = r + 8 * count by omega, pow_add, mul_assoc]
    have htail : ∀ j ∈ Finset.range (8 * count), b (8 * q + (8 + j)) * 2 ^ bitWeight .lsb (8 + 8 * count) (8 + j) =
        b (8 * (q + 1) + j) * 2 ^ bitWeight .lsb (8 * count) j := by
      intro j hj
      have hj := Finset.mem_range.1 hj
      rw [bitWeight, bitWeight, show 8 * q + (8 + j) = 8 * (q + 1) + j by omega,
        show (8 + 8 * count) / 8 - 1 - (8 + j) / 8 = 8 * count / 8 - 1 - j / 8 by omega, Nat.add_mod_left]
    rw [Nat.mul_succ, accumulateAll_lsb_byte, ih, Nat.add_comm (8 * count) 8, Finset.sum_range_add,
      Finset.sum_congr rfl hfirst, Finset.sum_congr rfl htail, ← Finset.sum_mul, pow_add]
    ring

/-- R114: the accumulated value is the sum of the bits at their weights. -/
theorem accumulateAll_eq_sum (b : Nat → Nat) {o : BitOrder} {n : Nat} (ho : o = .lsb → n % 8 = 0) :
    accumulateAll o b n 0 0 = ∑ i ∈ Finset.range n, b i * 2 ^ bitWeight o n i := by
  cases o with
  | msb => simpa only [Nat.zero_mul, Nat.zero_add] using accumulateAll_msb_eq_sum b n 0 0
  | lsb =>
    obtain ⟨m, rfl⟩ := Nat.dvd_of_mod_eq_zero (ho rfl)
    simpa only [Nat.zero_mul, Nat.mul_zero, Nat.zero_add] using accumulateAll_lsb_eq_sum b m 0 0

section
variable {b : Nat → Nat} (hbit : ∀ i, b i ≤ 1)
include hbit

theorem accumulateAll_msb_lt (count : Nat) : ∀ i acc, accumulateAll .msb b count i acc < (acc + 1) * 2 ^ count := by
  induction count with
  | zero => intro i acc; simp [accumulateAll]
  | succ count ih =>
    intro i acc
    calc accumulateAll .msb b (count + 1) i acc < (2 * acc + b i + 1) * 2 ^ count := ih (i + 1) _
      _ ≤ ((acc + 1) * 2) * 2 ^ count := Nat.mul_le_mul_right _ (by have := hbit i; omega)
      _ = (acc + 1) * 2 ^ (count + 1) := by ring

/-- Eight bits are a byte. -/
theorem sum_byte_lt (q : Nat) : ∑ r ∈ Finset.range 8, b (8 * q + r) * 2 ^ r < 256 :=
  calc ∑ r ∈ Finset.range 8, b (8 * q + r) * 2 ^ r
      ≤ ∑ r ∈ Finset.range 8, 1 * 2 ^ r := Finset.sum_le_sum fun r _ => Nat.mul_le_mul_right _ (hbit _)
    _ < 256 := by decide

theorem accumulateAll_lsb_lt (count : Nat) : ∀ q acc,
    accumulateAll .lsb b (8 * count) (8 * q) acc < (acc + 1) * 2 ^ (8 * count) := by
  induction count with
  | zero => intro q acc; simp [accumulateAll]
  | succ count ih =>
    intro q acc
    rw [Nat.mul_succ, accumulateAll_lsb_byte]
    calc _ < (256 * acc + ∑ r ∈ Finset.range 8, b (8 * q + r) * 2 ^ r + 1) * 2 ^ (8 * count) := ih (q + 1) _
      _ ≤ ((acc + 1) * 256) * 2 ^ (8 * count) := Nat.mul_le_mul_right _ (by have := sum_byte_lt hbit q; omega)
      _ = (acc + 1) * 2 ^ (8 * count + 8) := by ring

/-- `n` bits accumulate to a value of `n` bits. -/
theorem accumulateAll_lt {o : BitOrder} {n : Nat} (ho : o = .lsb → n % 8 = 0) : accumulateAll o b n 0 0 < 2 ^ n := by
  cases o with
  | msb => simpa only [Nat.zero_add, Nat.one_mul] using accumulateAll_msb_lt hbit n 0 0
  | lsb =>
    obtain ⟨m, rfl⟩ := Nat.dvd_of_mod_eq_zero (ho rfl)
    simpa only [Nat.zero_add, Nat.mul_zero, Nat.one_mul] using accumulateAll_lsb_lt hbit m 0 0

end

/-! Good pairs, decoded. -/

/-- The bit of a space that is in one of the windows: the one-space's is looked at first (R112). -/
def oneBit (os space : Nat) : Nat := if matchSpace space os then 1 else 0

theorem oneBit_le_one (os space : Nat) : oneBit os space ≤ 1 := by
  unfold oneBit
  split_ifs <;> decide

theorem spaceBit_eq_oneBit {space os zs : Nat} (h : matchSpace space os = true ∨ matchSpace space zs = true) :
    spaceBit space os zs = some (oneBit os space) := by
  unfold spaceBit oneBit
  split_ifs with hone hzero
  · rfl
  · rfl
  · exact absurd h (not_or.2 ⟨hone, hzero⟩)

/-- R112 to R114: good pairs decode to the sum of their bits at their weights, which has `n` bits. -/
theorem decodePairs_of_goodPairs {e : Nat → Nat} {base bm os zs n : Nat} {o : BitOrder} (ho : o = .lsb → n % 8 = 0)
    (hgood : GoodPairsBefore e base bm os zs n) :
    decodePairs e base bm os zs o n 0 0 =
      .ok (∑ i ∈ Finset.range n, oneBit os (e (base + 2 * i + 1)) * 2 ^ bitWeight o n i) := by
  rw [← accumulateAll_eq_sum (fun i => oneBit os (e (base + 2 * i + 1))) ho]
  refine decodePairs_ok base bm os zs o _ n 0 0 fun r _ hr => ?_
  rw [Nat.zero_add] at hr
  exact (hgood r hr).imp_right spaceBit_eq_oneBit

theorem sum_oneBit_lt (e : Nat → Nat) (os : Nat) {n : Nat} {o : BitOrder} (ho : o = .lsb → n % 8 = 0) :
    ∑ i ∈ Finset.range n, oneBit os (e i) * 2 ^ bitWeight o n i < 2 ^ n :=
  accumulateAll_eq_sum (fun i => oneBit os (e i)) ho ▸ accumulateAll_lt (fun _ => oneBit_le_one os _) ho

/-- Settles O21: behind the checks the loop meets good pairs only, and returns their sum. -/
theorem decpdValueIsTheWeightedSum : Obligations.DecpdValueIsTheWeightedSum := by
  refine ⟨fun n i => ⟨rfl, rfl⟩, fun o n s hn ho hlen hpairs hgood => ?_⟩
  have hgood : GoodPairsBefore s.dur 0 s.bitm.toNat s.ones.toNat s.zeros.toNat n := by
    simpa only [GoodPairsBefore, Nat.zero_add] using hgood
  have hvalue := decodePairs_of_goodPairs ho hgood
  simp only [Nat.zero_add] at hvalue
  have hlt := sum_oneBit_lt (fun i => s.dur (2 * i + 1)) s.ones.toNat ho
  have hok : outcome (.decpd o n) s =
      .ok { res := ∑ i ∈ Finset.range n, oneBit s.ones.toNat (s.dur (2 * i + 1)) * 2 ^ bitWeight o n i } := by
    rw [outcome_decpd_of_checks hn ho hlen, decodePd, if_neg hpairs.not_gt, hvalue]
    rfl
  have hwide : 2 ^ n ≤ 2 ^ 64 := Nat.pow_le_pow_right (by decide) (by omega)
  obtain ⟨t, hexec, hsucc, hops, hbuf⟩ := exec_succeeds_scalar hok (hlt.trans_le hwide)
  exact ⟨t, hexec, hsucc, hsucc.res.trans_lt hlt, hops, hbuf⟩

/-! `DECNEC`. -/

/-- R174 to R176: in a frame of either length whose header and data are good, the stop mark is left to judge. -/
theorem decodeNec_of_data {e : Nat → Nat} {len v k : Nat} (hframe : len = 68 ∨ len = 4) (hk : len - 2 = k)
    (hhdrm : matchMark (e 0) Config.necHdrMark = true) (hhdrs : matchSpace (e 1) (necHeaderSpace len) = true)
    (hdata : necData e len = .ok v) :
    decodeNec e len = unlessFail (markCheck e .eNecStop k Config.necBitMark)
      (.ok { res := v, rpt := decide (len = Config.necRptLen) }) := by
  have hlen : necLengthCheck len = none := if_pos hframe
  have hspace : spaceCheck e .eNecHdrs 1 (necHeaderSpace len) = none := if_pos hhdrs
  rw [decodeNec, hlen, markCheck_eq_none hhdrm, hspace, hdata, necStop, hk]
  rfl

/-- Settles O33: the 32 pairs from element 2 on give the value, the stop mark behind them the outcome. -/
theorem necFullFrameDecodes : Obligations.NecFullFrameDecodes := by
  intro s hlen hhdrm hhdrs hgood
  have hspaceIndex (j : Nat) : 3 + 2 * j = 2 + 2 * j + 1 := by omega
  simp only [hspaceIndex] at hgood ⊢
  have hdata : necData s.dur 68 = .ok _ :=
    (if_pos rfl).trans (decodePairs_of_goodPairs (o := .lsb) (fun _ => rfl) hgood)
  have hnec := outcome_decnec_of_len (s := s) (by omega)
  rw [hlen, decodeNec_of_data (.inl rfl) rfl hhdrm hhdrs hdata] at hnec
  refine ⟨fun hstop => ?_, fun hstop => ?_⟩
  · rw [markCheck_eq_none (nominal := Config.necBitMark) hstop, unlessFail_none] at hnec
    have hlt := sum_oneBit_lt (fun i => s.dur (2 + 2 * i + 1)) 1680 (o := .lsb) (n := 32) (fun _ => rfl)
    exact exec_succeeds_scalar hnec (hlt.trans (by decide))
  · rw [markCheck_eq_some (nominal := Config.necBitMark) (Bool.eq_false_iff.1 hstop), unlessFail_some] at hnec
    exact exec_fails hnec (by norm_num) (s.elem 66).isLt (by norm_num [Config.necBitMark, Config.necUnit])

/-- The accepted stop marks. -/
theorem matchMark_stop_iff (obs : Nat) : matchMark obs Config.necBitMark = true ↔ 435 ≤ obs ∧ obs ≤ 726 := by
  rw [matchMark_iff_nat, Config.necBitMark, Config.necUnit]
  omega

/-- Settles O34: a repeat frame has no data, and its stop mark is element 2. -/
theorem necRepeatFrameIsRecognised : Obligations.NecRepeatFrameIsRecognised := by
  intro s hlen hhdrm hhdrs
  have hdata : necData s.dur 4 = .ok 0 := if_neg (by decide)
  have hnec := outcome_decnec_of_len (s := s) (by omega)
  rw [hlen, decodeNec_of_data (.inr rfl) rfl hhdrm hhdrs hdata] at hnec
  rw [← matchMark_stop_iff]
  refine ⟨fun hstop => ?_, fun hstop => ?_⟩
  · rw [markCheck_eq_none hstop, unlessFail_none] at hnec
    exact exec_succeeds hnec rfl (Nat.two_pow_pos 64) (Nat.two_pow_pos 32) (Nat.two_pow_pos 32) (Nat.two_pow_pos 32)
  · rw [markCheck_eq_some hstop, unlessFail_some] at hnec
    exact exec_fails hnec (by norm_num) (s.elem 2).isLt (by norm_num [Config.necBitMark, Config.necUnit])

end Sys2Proof.Machine
end

section
/-! PROOFS. Every command's outcome and frame (60_exceptions.md R190; 10_state.md R33), and the decoders on an empty
buffer (70_reset_and_hazards.md R222). -/

namespace Sys2Proof.Machine

/-- A commit of a success has the shape of a success, its results read off the state it leaves. -/
theorem commitOk_shape (r : Results) (s : State) :
    ∃ res rpt c p d, Succeeds s (commitOk r s) res rpt c p d :=
  ⟨_, _, _, _, _, rfl, rfl, rfl, rfl, rfl, rfl, rfl, rfl, rfl, rfl, rfl, rfl, rfl⟩

/-- A commit of a failure has the shape of a failure, its context read off the state it leaves. -/
theorem commitFail_shape (f : Failure) (s : State) :
    ∃ idx obs exp, FailsWith s (commitFail f s) f.code idx obs exp := by
  refine ⟨_, _, _, rfl, rfl, rfl, rfl, rfl, rfl, ?_, rfl, rfl, rfl, rfl, rfl, rfl⟩
  simp [State.res]

/-- Settles O35: a command commits its outcome, and a failing outcome names a code. -/
theorem everyCommandSucceedsOrFails : Obligations.EveryCommandSucceedsOrFails := by
  intro i s
  refine ⟨_, exec_eq i s, ?_⟩
  cases hout : outcome i s with
  | ok r => exact .inl (commitOk_shape r s)
  | fail f =>
    obtain ⟨idx, obs, exp, hfails⟩ := commitFail_shape f s
    exact .inr ⟨f.code, idx, obs, exp, outcome_fail_code hout, hfails⟩

/-- Settles O37: the commit's own frame, and no data but an encoder's. -/
theorem onlyEncodersWriteTheBuffer : Obligations.OnlyEncodersWriteTheBuffer := by
  intro i s t hexec
  rw [exec_eq, Host.Outcome.next.injEq] at hexec
  subst hexec
  exact ⟨commit_operandsKept _ s, commit_hzd _ s, fun hi => commit_bufferKept fun _ => outcome_data_none hi⟩

/-- Settles O50: no pair is there for `DECPD n` or `DECPW`, no frame for `DECNEC`, and `DECPD 0` needs none. -/
theorem emptyBufferFailsOnLength : Obligations.EmptyBufferFailsOnLength := by
  intro s hempty
  have hlen : s.len.toNat = 0 := congrArg BitVec.toNat hempty
  have hcap : s.len.toNat ≤ 256 := by omega
  refine ⟨fun o n hpos hn ho => ?_, ?_, ?_, fun o => ?_⟩
  · obtain ⟨t, hexec, hfail, -, -⟩ := decpdTooFewPairsFails o n s hn ho hcap (by omega)
    rw [hlen] at hfail
    exact ⟨t, hexec, hfail⟩
  · have hkept := pwKept_le s.dur (s.len.toNat / 2)
    obtain ⟨t, hexec, hfail, -, -⟩ := exec_decpw_fails_of_count (n := 0) hcap (by omega)
      (pwCountCheck_of_lt (by decide)) (by decide)
    exact ⟨t, hexec, hfail⟩
  · obtain ⟨t, hexec, hfail, -, -⟩ := necWrongLengthFails s hcap (by omega) (by omega)
    rw [hlen] at hfail
    exact ⟨t, hexec, hfail⟩
  · obtain ⟨t, hexec, hsucc, -, -⟩ := decpdBitCountRule.2 o s hcap
    exact ⟨t, hexec, hsucc⟩

end Sys2Proof.Machine
end

section
/-! PROOFS. The step and a run of steps (30_encoding.md R83; 20_memory.md R53, R59; 70_reset_and_hazards.md R226): whose
turn it is, what can stop it, and that the host's accesses do not disturb the running command. -/

namespace Sys2Proof.Machine

/-! One step. -/

theorem decode_of_decodeTableWord {nbits w : Nat} {i : Instr} (h : decodeTableWord nbits w = some i) :
    decode (tableWord nbits w) = .legal i := by
  unfold decodeTableWord at h
  cases hdec : decode (tableWord nbits w) with
  | legal j => rw [hdec] at h; exact congrArg _ (Option.some.inj h)
  | illegal why => rw [hdec] at h; cases h

/-- Settles O6: the placed word is the pending one, and its commit is due. -/
theorem placedWordRunsNext : Obligations.PlacedWordRunsNext :=
  fun s nbits w i h => stepRunsThePendingCommand (s.withFetchWord nbits w) i rfl (decode_of_decodeTableWord h)

/-- Settles O7: of what a step can be, the empty inbox leaves "nothing" and an event leaves its own effect. -/
theorem stepTakesTheOldestEvent : Obligations.StepTakesTheOldestEvent := by
  intro s hnot
  rcases step_cases s with ⟨hdue, -⟩ | ⟨-, hinbox, -, hstay⟩ | ⟨e, rest, -, hinbox, hevent⟩
  · exact absurd hdue (Bool.eq_false_iff.1 hnot)
  · exact ⟨fun _ => hstay, fun e q h => absurd (hinbox.symm.trans h) (List.cons_ne_nil e q).symm⟩
  · refine ⟨fun h => absurd (hinbox.symm.trans h) (List.cons_ne_nil e rest), fun e' q h => ?_⟩
    obtain ⟨rfl, rfl⟩ := List.cons.inj (hinbox.symm.trans h)
    exact hevent

/-- R53: an event goes on, or is an access to an unmapped index and stops with the fault that names it. -/
theorem perform_goesOn_or_unmapped (e : Event) (s : State) : (∃ t, perform e s = .next t) ∨
    ∃ i, perform e s = .fault (.unmappedIndex i) ∧ Loc.ofIndex i = none ∧ (e = .read i ∨ ∃ v, e = .write i v) := by
  cases e with
  | read i =>
    cases hi : Loc.ofIndex i with
    | none => exact .inr ⟨i, perform_read_of_unmapped hi s, hi, .inl rfl⟩
    | some l => exact .inl ⟨_, perform_read_of_mapped hi s⟩
  | write i v =>
    cases hi : Loc.ofIndex i with
    | none => exact .inr ⟨i, perform_write_of_unmapped hi v s, hi, .inr ⟨v, rfl⟩⟩
    | some l => exact .inl ⟨_, perform_write_of_mapped hi v s⟩
  | wait | reset | powerUp => exact .inl ⟨_, rfl⟩

/-- Settles O54: a completion always goes on, so what stops a step is the event it takes. -/
theorem onlyUnmappedAccessStopsAStep : Obligations.OnlyUnmappedAccessStopsAStep := by
  intro s
  rcases step_cases s with ⟨-, hcomplete⟩ | ⟨-, -, -, hstay⟩ | ⟨e, rest, -, hinbox, hevent⟩
  · obtain ⟨o, ho, -⟩ := complete_eq s
    exact .inl ⟨_, hcomplete.trans ho⟩
  · exact .inl ⟨s, hstay⟩
  · rcases perform_goesOn_or_unmapped e (s.takeEvent rest) with ⟨t, ht⟩ | ⟨i, hfault, hi, hread | ⟨v, hwrite⟩⟩
    · exact .inl ⟨t, hevent.trans ht⟩
    · exact .inr ⟨i, rest, hevent.trans hfault, hi, .inl (hread ▸ hinbox)⟩
    · exact .inr ⟨i, rest, hevent.trans hfault, hi, .inr ⟨v, hwrite ▸ hinbox⟩⟩

/-! States that differ in `HZD` and the outside world's fields. -/

/-- `s` with other values of what host accesses may change while a command runs; `SameButHazard` says that a state is
one. -/
def State.disturbed (s : State) (hzd : Bool) (lat : Nat) (inbox : List Event) (rdata : Option Word) : State :=
  { s with status := { s.status with hzd := hzd }, lat := lat, inbox := inbox, rdata := rdata }

theorem SameButHazard.eq_disturbed {s t : State} (h : SameButHazard s t) :
    t = s.disturbed t.status.hzd t.lat t.inbox t.rdata := h

theorem sameButHazard_disturbed (s : State) (hzd : Bool) (lat : Nat) (inbox : List Event) (rdata : Option Word) :
    SameButHazard s (s.disturbed hzd lat inbox rdata) := rfl

theorem SameButHazard.refl (s : State) : SameButHazard s s := rfl

theorem sameButHazard_takeEvent (s : State) (q : List Event) : SameButHazard s (s.takeEvent q) := rfl

theorem SameButHazard.busy_eq {s t : State} (h : SameButHazard s t) : t.status.busy = s.status.busy := by
  rw [h.eq_disturbed]
  rfl

theorem SameButHazard.pend_eq {s t : State} (h : SameButHazard s t) : t.pend = s.pend := by
  rw [h.eq_disturbed]
  rfl

theorem SameButHazard.trans {s t u : State} (hst : SameButHazard s t) (htu : SameButHazard t u) :
    SameButHazard s u := by
  rw [htu.eq_disturbed, hst.eq_disturbed]
  exact sameButHazard_disturbed s _ _ _ _

/-- No command reads what host accesses may change (30_encoding.md R81). -/
theorem SameButHazard.outcome_eq {s t : State} (h : SameButHazard s t) (i : Instr) : outcome i t = outcome i s := by
  rw [h.eq_disturbed]
  cases i <;> rfl

/-- No commit sets it. -/
theorem SameButHazard.commit {s t : State} (h : SameButHazard s t) (o : CmdOutcome) :
    SameButHazard (commit o s) (commit o t) := by
  rw [h.eq_disturbed]
  cases o with
  | fail f => rfl
  | ok r =>
    obtain ⟨res, rpt, customer, parity, pwdata, data⟩ := r
    cases data <;> rfl

/-- R226: a disturbed command completes as it would have, but for the disturbance. -/
theorem SameButHazard.complete {s t u : State} (h : SameButHazard s t) (hs : complete s = .next u) :
    ∃ v, complete t = .next v ∧ SameButHazard u v := by
  have hpend := h.pend_eq
  cases hdec : decode s.pend with
  | legal i =>
    rw [complete_of_legal hdec, exec_eq, Host.Outcome.next.injEq] at hs
    refine ⟨_, ?_, hs ▸ h.commit (outcome i s)⟩
    rw [complete_of_legal (hpend ▸ hdec), exec_eq, h.outcome_eq]
  | illegal why =>
    rw [complete_of_illegal hdec, Host.Outcome.next.injEq] at hs
    refine ⟨_, ?_, hs ▸ h.commit _⟩
    rw [complete_of_illegal (hpend ▸ hdec), hpend]

/-! A run to the completion. -/

/-- R226: a harmless event while a command runs goes on, disturbs nothing else, and leaves only harmless events. -/
theorem perform_harmless {s : State} {e : Event} (hbusy : s.status.busy = true) (he : e.harmless = true)
    (hinbox : ∀ e' ∈ s.inbox, e'.harmless = true) :
    ∃ t, perform e s = .next t ∧ SameButHazard s t ∧ t.lat = s.lat ∧ ∀ e' ∈ t.inbox, e'.harmless = true := by
  cases e with
  | read i =>
    obtain ⟨l, hl⟩ := Option.isSome_iff_exists.1 he
    exact ⟨_, perform_read_of_mapped hl s, rfl, rfl, hinbox⟩
  | write i v =>
    obtain ⟨l, hl⟩ := Option.isSome_iff_exists.1 he
    exact ⟨_, perform_write_busy hl hbusy v, rfl, rfl, hinbox⟩
  | wait =>
    refine ⟨hostWait s, rfl, ?_⟩
    cases hdone : s.status.done with
    | true => rw [hostWait_of_done hdone]; exact ⟨rfl, rfl, hinbox⟩
    | false => rw [hostWait_of_not_done hdone]; exact ⟨rfl, rfl, List.forall_mem_cons.2 ⟨rfl, hinbox⟩⟩
  | reset | powerUp => cases he

/-- A busy state whose commit is not due has an event to take, and latency left. -/
theorem step_of_busy_not_due {s : State} (hbusy : s.status.busy = true) (hdue : s.commitDue = false) :
    ∃ e q, s.inbox = e :: q ∧ 0 < s.lat ∧ step s = perform e (s.takeEvent q) := by
  have hwaiting : s.lat ≠ 0 ∧ s.inbox ≠ [] := by simpa [State.commitDue, hbusy] using hdue
  obtain ⟨hlat, hinbox⟩ := hwaiting
  obtain ⟨e, q, hq⟩ := List.exists_cons_of_ne_nil hinbox
  exact ⟨e, q, hq, Nat.pos_of_ne_zero hlat, (stepTakesTheOldestEvent s hdue).2 e q hq⟩

/-- R190: a completion leaves `BUSY = 0` and `DONE = 1`. -/
theorem commit_busy_done (o : CmdOutcome) (s : State) :
    (commit o s).status.busy = false ∧ (commit o s).status.done = true := by
  cases o <;> exact ⟨rfl, rfl⟩

/-- Settles O51: by induction on the latency left; each event before the commit is a disturbance, which the completion
carries along. -/
theorem runningCommandIsUndisturbed : Obligations.RunningCommandIsUndisturbed := by
  intro s
  induction hlat : s.lat using Nat.strong_induction_on generalizing s with
  | _ n ih =>
    intro hbusy hinbox
    cases hdue : s.commitDue with
    | true =>
      obtain ⟨o, ho, -⟩ := complete_eq s
      obtain ⟨hidle, hdone⟩ := commit_busy_done o s
      exact ⟨1, by omega, _, _, core_run_succ ((step_of_commitDue hdue).trans ho), ho, hidle, hdone, .refl _⟩
    | false =>
      obtain ⟨e, q, hq, hpos, hstep⟩ := step_of_busy_not_due hbusy hdue
      obtain ⟨he, hrest⟩ := List.forall_mem_cons.1 (hq ▸ hinbox)
      obtain ⟨s', hperform, hsame, hlat', hinbox'⟩ := perform_harmless (s := s.takeEvent q) hbusy he hrest
      have hsame := (sameButHazard_takeEvent s q).trans hsame
      obtain ⟨k, hk, t, v, hrun, hv, hidle, hdone, hvt⟩ :=
        ih s'.lat (by rw [hlat', takeEvent_lat]; omega) s' rfl (hsame.busy_eq.trans hbusy) hinbox'
      obtain ⟨o, ho, -⟩ := complete_eq s
      obtain ⟨v', hv', huv⟩ := hsame.complete ho
      obtain rfl : v = v' := Host.Outcome.next.inj (hv.symm.trans hv')
      refine ⟨k + 1, ?_, t, _, (core_run_succ (hstep.trans hperform)).trans hrun, ho, hidle, hdone, huv.trans hvt⟩
      rw [hlat', takeEvent_lat] at hk
      omega

end Sys2Proof.Machine
end
